-- ==== Sys2Proof/Word.lean ====
section
/-! DEFINITION. The word types of the raven_v3 CORE: 32-bit words, bytes, register selectors. -/

namespace Sys2Proof

/-- A 32-bit register value, address, immediate or instruction word (00_scope.md R6; 10_state.md R21). -/
abbrev Word := BitVec 32

/-- A byte of memory (20_memory.md R50). -/
abbrev Byte := BitVec 8

/-- A register selector: every 5-bit field names one (10_state.md R23). -/
abbrev Reg := BitVec 5

/-- The all-ones word, -1 read as signed. -/
abbrev allOnes : Word := BitVec.allOnes 32

/-- The most negative signed word, -2^31. -/
abbrev intMin : Word := BitVec.intMin 32

end Sys2Proof
end

