-- ==== Sys2Proof/Syntax.lean ====
section
/-! DEFINITION. The instructions of the raven_v3 CORE: one constructor per row of spec/opcode_table.json, with the
operands its format reads (30_encoding.md R121 to R127). Bits a format ignores (R130) and the `p` field (R118) are not kept.
An immediate is the 32-bit value the decoder produces (R10, R113 to R117); which values an encoding admits is WellFormed.lean's. -/

namespace Sys2Proof

/-- The eight opcode values of word bits 3:1 (30_encoding.md R104). -/
inductive Opcode where
  | compressed | load | func | store | arith | io | arithSkip | immUpper
deriving DecidableEq, Repr

/-- The 32 function numbers of the arithmetic unit, 0 to 31 in order (41_arith.md R204, R210 to R241);
f20 and f21 are the unassigned ones (R230, R231). -/
inductive AluOp where
  | add | sub | and | or | xor | not | mulu | mulhu | mul | mulh | divu | remu | div | rem | shl | shr
  | sal | sar | rol | ror | f20 | f21 | seq | sne | sgtu | sgt | sgeu | sge | sltu | slt | sleu | sle
deriving DecidableEq, Repr

/-- The eight function numbers 0 to 7 of the immediate-upper unit (42_immupper.md R250 to R257); f6 and f7 are the unassigned
ones (R258, R259). -/
inductive ImmuOp where
  | add | sub | and | or | xor | merge | f6 | f7
deriving DecidableEq, Repr

/-- The five load functions, functs 0 to 4 (43_loadstore.md R271 to R276). -/
inductive LoadOp where
  | lw | lhu | lh | lbu | lb
deriving DecidableEq, Repr

/-- The three store functions, functs 0 to 2 (43_loadstore.md R280 to R283). -/
inductive StoreOp where
  | sw | sh | sb
deriving DecidableEq, Repr

/-- Where the second operand s2 comes from (40_cycle.md R154): a register, or the decoded immediate. -/
inductive Src2 where
  | reg (r : Reg)
  | imm (v : Word)
deriving DecidableEq, Repr

/-- The instructions, in the order of spec/opcode_table.json. The suffix I is the immediate form, Sk the ArithSkip form. -/
inductive Instr where
  -- Arith, register and immediate forms (41_arith.md R200, R210 to R241).
  | add (rd rs1 rs2 : Reg)
  | addI (rd rs1 : Reg) (imm : Word)
  | sub (rd rs1 rs2 : Reg)
  | subI (rd rs1 : Reg) (imm : Word)
  | and (rd rs1 rs2 : Reg)
  | andI (rd rs1 : Reg) (imm : Word)
  | or (rd rs1 rs2 : Reg)
  | orI (rd rs1 : Reg) (imm : Word)
  | xor (rd rs1 rs2 : Reg)
  | xorI (rd rs1 : Reg) (imm : Word)
  | not (rd rs1 rs2 : Reg)
  | notI (rd rs1 : Reg) (imm : Word)
  | mulu (rd rs1 rs2 : Reg)
  | muluI (rd rs1 : Reg) (imm : Word)
  | mulhu (rd rs1 rs2 : Reg)
  | mulhuI (rd rs1 : Reg) (imm : Word)
  | mul (rd rs1 rs2 : Reg)
  | mulI (rd rs1 : Reg) (imm : Word)
  | mulh (rd rs1 rs2 : Reg)
  | mulhI (rd rs1 : Reg) (imm : Word)
  | divu (rd rs1 rs2 : Reg)
  | divuI (rd rs1 : Reg) (imm : Word)
  | remu (rd rs1 rs2 : Reg)
  | remuI (rd rs1 : Reg) (imm : Word)
  | div (rd rs1 rs2 : Reg)
  | divI (rd rs1 : Reg) (imm : Word)
  | rem (rd rs1 rs2 : Reg)
  | remI (rd rs1 : Reg) (imm : Word)
  | shl (rd rs1 rs2 : Reg)
  | shlI (rd rs1 : Reg) (imm : Word)
  | shr (rd rs1 rs2 : Reg)
  | shrI (rd rs1 : Reg) (imm : Word)
  | sal (rd rs1 rs2 : Reg)
  | salI (rd rs1 : Reg) (imm : Word)
  | sar (rd rs1 rs2 : Reg)
  | sarI (rd rs1 : Reg) (imm : Word)
  | rol (rd rs1 rs2 : Reg)
  | rolI (rd rs1 : Reg) (imm : Word)
  | ror (rd rs1 rs2 : Reg)
  | rorI (rd rs1 : Reg) (imm : Word)
  | arithF20 (rd rs1 rs2 : Reg)
  | arithF20I (rd rs1 : Reg) (imm : Word)
  | arithF21 (rd rs1 rs2 : Reg)
  | arithF21I (rd rs1 : Reg) (imm : Word)
  | seq (rd rs1 rs2 : Reg)
  | seqI (rd rs1 : Reg) (imm : Word)
  | sne (rd rs1 rs2 : Reg)
  | sneI (rd rs1 : Reg) (imm : Word)
  | sgtu (rd rs1 rs2 : Reg)
  | sgtuI (rd rs1 : Reg) (imm : Word)
  | sgt (rd rs1 rs2 : Reg)
  | sgtI (rd rs1 : Reg) (imm : Word)
  | sgeu (rd rs1 rs2 : Reg)
  | sgeuI (rd rs1 : Reg) (imm : Word)
  | sge (rd rs1 rs2 : Reg)
  | sgeI (rd rs1 : Reg) (imm : Word)
  | sltu (rd rs1 rs2 : Reg)
  | sltuI (rd rs1 : Reg) (imm : Word)
  | slt (rd rs1 rs2 : Reg)
  | sltI (rd rs1 : Reg) (imm : Word)
  | sleu (rd rs1 rs2 : Reg)
  | sleuI (rd rs1 : Reg) (imm : Word)
  | sle (rd rs1 rs2 : Reg)
  | sleI (rd rs1 : Reg) (imm : Word)
  -- ArithSkip, register and immediate forms (41_arith.md R201).
  | addSk (rd rs1 rs2 : Reg)
  | addISk (rd rs1 : Reg) (imm : Word)
  | subSk (rd rs1 rs2 : Reg)
  | subISk (rd rs1 : Reg) (imm : Word)
  | andSk (rd rs1 rs2 : Reg)
  | andISk (rd rs1 : Reg) (imm : Word)
  | orSk (rd rs1 rs2 : Reg)
  | orISk (rd rs1 : Reg) (imm : Word)
  | xorSk (rd rs1 rs2 : Reg)
  | xorISk (rd rs1 : Reg) (imm : Word)
  | notSk (rd rs1 rs2 : Reg)
  | notISk (rd rs1 : Reg) (imm : Word)
  | muluSk (rd rs1 rs2 : Reg)
  | muluISk (rd rs1 : Reg) (imm : Word)
  | mulhuSk (rd rs1 rs2 : Reg)
  | mulhuISk (rd rs1 : Reg) (imm : Word)
  | mulSk (rd rs1 rs2 : Reg)
  | mulISk (rd rs1 : Reg) (imm : Word)
  | mulhSk (rd rs1 rs2 : Reg)
  | mulhISk (rd rs1 : Reg) (imm : Word)
  | divuSk (rd rs1 rs2 : Reg)
  | divuISk (rd rs1 : Reg) (imm : Word)
  | remuSk (rd rs1 rs2 : Reg)
  | remuISk (rd rs1 : Reg) (imm : Word)
  | divSk (rd rs1 rs2 : Reg)
  | divISk (rd rs1 : Reg) (imm : Word)
  | remSk (rd rs1 rs2 : Reg)
  | remISk (rd rs1 : Reg) (imm : Word)
  | shlSk (rd rs1 rs2 : Reg)
  | shlISk (rd rs1 : Reg) (imm : Word)
  | shrSk (rd rs1 rs2 : Reg)
  | shrISk (rd rs1 : Reg) (imm : Word)
  | salSk (rd rs1 rs2 : Reg)
  | salISk (rd rs1 : Reg) (imm : Word)
  | sarSk (rd rs1 rs2 : Reg)
  | sarISk (rd rs1 : Reg) (imm : Word)
  | rolSk (rd rs1 rs2 : Reg)
  | rolISk (rd rs1 : Reg) (imm : Word)
  | rorSk (rd rs1 rs2 : Reg)
  | rorISk (rd rs1 : Reg) (imm : Word)
  | arithF20Sk (rd rs1 rs2 : Reg)
  | arithF20ISk (rd rs1 : Reg) (imm : Word)
  | arithF21Sk (rd rs1 rs2 : Reg)
  | arithF21ISk (rd rs1 : Reg) (imm : Word)
  | seqSk (rd rs1 rs2 : Reg)
  | seqISk (rd rs1 : Reg) (imm : Word)
  | sneSk (rd rs1 rs2 : Reg)
  | sneISk (rd rs1 : Reg) (imm : Word)
  | sgtuSk (rd rs1 rs2 : Reg)
  | sgtuISk (rd rs1 : Reg) (imm : Word)
  | sgtSk (rd rs1 rs2 : Reg)
  | sgtISk (rd rs1 : Reg) (imm : Word)
  | sgeuSk (rd rs1 rs2 : Reg)
  | sgeuISk (rd rs1 : Reg) (imm : Word)
  | sgeSk (rd rs1 rs2 : Reg)
  | sgeISk (rd rs1 : Reg) (imm : Word)
  | sltuSk (rd rs1 rs2 : Reg)
  | sltuISk (rd rs1 : Reg) (imm : Word)
  | sltSk (rd rs1 rs2 : Reg)
  | sltISk (rd rs1 : Reg) (imm : Word)
  | sleuSk (rd rs1 rs2 : Reg)
  | sleuISk (rd rs1 : Reg) (imm : Word)
  | sleSk (rd rs1 rs2 : Reg)
  | sleISk (rd rs1 : Reg) (imm : Word)
  -- ImmUpper (42_immupper.md R250 to R259).
  | uadd (rd : Reg) (imm : Word)
  | usub (rd : Reg) (imm : Word)
  | uand (rd : Reg) (imm : Word)
  | uor (rd : Reg) (imm : Word)
  | uxor (rd : Reg) (imm : Word)
  | umerge (rd : Reg) (imm : Word)
  | immUpperF6 (rd : Reg) (imm : Word)
  | immUpperF7 (rd : Reg) (imm : Word)
  | immUpperBadFunct (funct : BitVec 4) (rd : Reg) (imm : Word)
  -- Load (43_loadstore.md R271 to R276).
  | lw (rd rs1 rs2 : Reg)
  | lwI (rd rs1 : Reg) (imm : Word)
  | lhu (rd rs1 rs2 : Reg)
  | lhuI (rd rs1 : Reg) (imm : Word)
  | lh (rd rs1 rs2 : Reg)
  | lhI (rd rs1 : Reg) (imm : Word)
  | lbu (rd rs1 rs2 : Reg)
  | lbuI (rd rs1 : Reg) (imm : Word)
  | lb (rd rs1 rs2 : Reg)
  | lbI (rd rs1 : Reg) (imm : Word)
  -- Store (43_loadstore.md R280 to R283); rs3 is the data register.
  | sw (rs3 rs1 rs2 : Reg)
  | swI (rs3 rs1 : Reg) (imm : Word)
  | sh (rs3 rs1 rs2 : Reg)
  | shI (rs3 rs1 : Reg) (imm : Word)
  | sb (rs3 rs1 rs2 : Reg)
  | sbI (rs3 rs1 : Reg) (imm : Word)
  -- Func (44_func.md R300 to R302).
  | call (rd rs2 : Reg)
  | callI (rd : Reg) (imm : Word)
  | ret (rs1 : Reg)
  -- Io (45_io.md R321, R322); ioOther is every Io word whose funct is not 0, in either mode.
  | io (rd rs1 rs2 rs3 : Reg)
  | ioI (rd rs1 : Reg) (imm : Word) (rs3 : Reg)
  | ioOther (funct : BitVec 8) (rd rs1 : Reg) (src : Src2) (rs3 : Reg)
  -- Compressed (46_compressed.md R340).
  | compressed
deriving DecidableEq, Repr

end Sys2Proof
end

