-- ==== Sys2Proof/Config.lean ====
section
/-! DEFINITION. The construction parameters of a core (00_scope.md R5) as plain data, and the reference configuration. MEM_BACKEND
with FLAT_SIZE stands in the memory and IO_DEVICE in the I/O port; XLEN and ALEN are the source's own 32. -/

namespace Sys2Proof

/-- PC_UNIT (R5, D1): whether the program counter counts instructions or bytes. -/
inductive PcUnit where
  | word
  | byte
deriving DecidableEq, Repr

/-- FIMM_WIDTH (R5, D5): the width of the Func immediate field at bit 13. -/
inductive FimmWidth where
  | eleven
  | twelve
deriving DecidableEq, Repr

/-- IMAGE_WRITE_POLICY (R5, D21, I12): what an aligned write below the length of a split image does. The image is immutable
(20_memory.md R66), so no policy stores the value. -/
inductive ImageWrites where
  /-- The write fails OutOfBounds (R68, the reference). -/
  | fault
  /-- The write is ignored: it completes and changes nothing (DEDUCED, log 7). -/
  | ignore
deriving DecidableEq, Repr

/-- What a core is constructed with beside its memory and its I/O device (00_scope.md R5). A step never changes it.
DESIGN CHOICE (unsafe only where a statement fixes a value; log 4): it stands in the state, so that one step covers every value. -/
structure Config where
  /-- PC_UNIT. -/
  pcUnit : PcUnit
  /-- FIMM_WIDTH. -/
  fimmWidth : FimmWidth
  /-- WINDOW_DEPTH_MAX; none is the spec's unbounded stack (10_state.md R32). -/
  windowDepthMax : Option Nat
  /-- IO_STD_FDS: the streams the reference device writes to (45_io.md R323). -/
  ioStdFds : List Word
  /-- OPCODE_MAP (D2): the opcode of each value of word bits 3:1 (30_encoding.md R104, R120). -/
  opcodeMap : Vector Opcode 8
  /-- ALU_FUNCT_MAP (D8): the operation of each funct from 0 to 21; the comparisons are the source's own 22 to 31 (41_arith.md R204). -/
  aluFunctMap : Vector AluOp 22
  /-- IMMU_FUNCT_MAP (D12): the operation of each ImmUpper funct from 0 to 7 (42_immupper.md R250). -/
  immuFunctMap : Vector ImmuOp 8
  /-- SHIFT_MASK (D10): the bits of s2 that make the amount of a shift or rotate (41_arith.md R205; log 6). -/
  shiftMask : Word
  /-- IMAGE_WRITE_POLICY. -/
  imageWrites : ImageWrites
deriving DecidableEq, Repr

/-- The reference configuration of R5. -/
def Config.reference : Config :=
  { pcUnit := .word
    fimmWidth := .twelve
    windowDepthMax := none
    ioStdFds := [1, 2]
    opcodeMap := #v[.compressed, .load, .func, .store, .arith, .io, .arithSkip, .immUpper]
    aluFunctMap := #v[.add, .sub, .and, .or, .xor, .not, .mulu, .mulhu, .mul, .mulh, .divu, .remu, .div, .rem, .shl, .shr,
      .sal, .sar, .rol, .ror, .f20, .f21]
    immuFunctMap := #v[.add, .sub, .and, .or, .xor, .merge, .f6, .f7]
    shiftMask := 0x1F
    imageWrites := .fault }

end Sys2Proof
end

