-- ==== Sys2Proof/WellFormed.lean ====
section
/-! DEFINITION. Which terms of Instr an instruction word can hold: the range of each immediate (30_encoding.md R113 to R117)
and of the function codes that two constructors keep (R109, R110). -/

namespace Sys2Proof

/-- R113, R114: the A- and S-immediates range from -4096 to 4095. -/
def fitsSigned13 (imm : Word) : Bool := decide (-4096 ≤ imm.toInt ∧ imm.toInt ≤ 4095)

/-- R115: the F-immediate ranges from -2048 to 2046 in steps of 2 (FIMM_WIDTH = 12). -/
def fitsFunc12 (imm : Word) : Bool := decide (-2048 ≤ imm.toInt ∧ imm.toInt ≤ 2046 ∧ imm.toInt % 2 = 0)

/-- R116: the I-immediate ranges from 0 to 31. -/
def fitsIo5 (imm : Word) : Bool := decide (imm.toNat ≤ 31)

/-- R117: the U-immediate's low 13 bits are zero. -/
def fitsUpper (imm : Word) : Bool := decide (imm.toNat % 8192 = 0)

/-- The second operand of an Io word: any register, or a 5-bit immediate (R116, R125). -/
def Src2.fitsIo : Src2 → Bool
  | .reg _ => true
  | .imm v => fitsIo5 v

/-- The terms an encoding admits. A register selector always fits (10_state.md R23). -/
def wellFormed : Instr → Bool
  -- register forms
  | .add _ _ _ | .sub _ _ _ | .and _ _ _ | .or _ _ _
  | .xor _ _ _ | .not _ _ _ | .mulu _ _ _ | .mulhu _ _ _
  | .mul _ _ _ | .mulh _ _ _ | .divu _ _ _ | .remu _ _ _
  | .div _ _ _ | .rem _ _ _ | .shl _ _ _ | .shr _ _ _
  | .sal _ _ _ | .sar _ _ _ | .rol _ _ _ | .ror _ _ _
  | .arithF20 _ _ _ | .arithF21 _ _ _ | .seq _ _ _ | .sne _ _ _
  | .sgtu _ _ _ | .sgt _ _ _ | .sgeu _ _ _ | .sge _ _ _
  | .sltu _ _ _ | .slt _ _ _ | .sleu _ _ _ | .sle _ _ _
  | .addSk _ _ _ | .subSk _ _ _ | .andSk _ _ _ | .orSk _ _ _
  | .xorSk _ _ _ | .notSk _ _ _ | .muluSk _ _ _ | .mulhuSk _ _ _
  | .mulSk _ _ _ | .mulhSk _ _ _ | .divuSk _ _ _ | .remuSk _ _ _
  | .divSk _ _ _ | .remSk _ _ _ | .shlSk _ _ _ | .shrSk _ _ _
  | .salSk _ _ _ | .sarSk _ _ _ | .rolSk _ _ _ | .rorSk _ _ _
  | .arithF20Sk _ _ _ | .arithF21Sk _ _ _ | .seqSk _ _ _ | .sneSk _ _ _
  | .sgtuSk _ _ _ | .sgtSk _ _ _ | .sgeuSk _ _ _ | .sgeSk _ _ _
  | .sltuSk _ _ _ | .sltSk _ _ _ | .sleuSk _ _ _ | .sleSk _ _ _
  | .lw _ _ _ | .lhu _ _ _ | .lh _ _ _ | .lbu _ _ _
  | .lb _ _ _ | .sw _ _ _ | .sh _ _ _ | .sb _ _ _
  | .call _ _ | .ret _ | .io _ _ _ _ | .compressed =>
      true
  -- A-immediate forms
  | .addI _ _ imm | .subI _ _ imm | .andI _ _ imm | .orI _ _ imm
  | .xorI _ _ imm | .notI _ _ imm | .muluI _ _ imm | .mulhuI _ _ imm
  | .mulI _ _ imm | .mulhI _ _ imm | .divuI _ _ imm | .remuI _ _ imm
  | .divI _ _ imm | .remI _ _ imm | .shlI _ _ imm | .shrI _ _ imm
  | .salI _ _ imm | .sarI _ _ imm | .rolI _ _ imm | .rorI _ _ imm
  | .arithF20I _ _ imm | .arithF21I _ _ imm | .seqI _ _ imm | .sneI _ _ imm
  | .sgtuI _ _ imm | .sgtI _ _ imm | .sgeuI _ _ imm | .sgeI _ _ imm
  | .sltuI _ _ imm | .sltI _ _ imm | .sleuI _ _ imm | .sleI _ _ imm
  | .addISk _ _ imm | .subISk _ _ imm | .andISk _ _ imm | .orISk _ _ imm
  | .xorISk _ _ imm | .notISk _ _ imm | .muluISk _ _ imm | .mulhuISk _ _ imm
  | .mulISk _ _ imm | .mulhISk _ _ imm | .divuISk _ _ imm | .remuISk _ _ imm
  | .divISk _ _ imm | .remISk _ _ imm | .shlISk _ _ imm | .shrISk _ _ imm
  | .salISk _ _ imm | .sarISk _ _ imm | .rolISk _ _ imm | .rorISk _ _ imm
  | .arithF20ISk _ _ imm | .arithF21ISk _ _ imm | .seqISk _ _ imm | .sneISk _ _ imm
  | .sgtuISk _ _ imm | .sgtISk _ _ imm | .sgeuISk _ _ imm | .sgeISk _ _ imm
  | .sltuISk _ _ imm | .sltISk _ _ imm | .sleuISk _ _ imm | .sleISk _ _ imm
  | .lwI _ _ imm | .lhuI _ _ imm | .lhI _ _ imm | .lbuI _ _ imm
  | .lbI _ _ imm =>
      fitsSigned13 imm
  -- S-immediate forms
  | .swI _ _ imm | .shI _ _ imm | .sbI _ _ imm =>
      fitsSigned13 imm
  -- U-immediate forms
  | .uadd _ imm | .usub _ imm | .uand _ imm | .uor _ imm
  | .uxor _ imm | .umerge _ imm | .immUpperF6 _ imm | .immUpperF7 _ imm =>
      fitsUpper imm
  -- functs 8 to 15 (42_immupper.md R251)
  | .immUpperBadFunct funct _ imm => decide (8 ≤ funct.toNat) && fitsUpper imm
  | .callI _ imm => fitsFunc12 imm
  | .ioI _ _ imm _ => fitsIo5 imm
  -- funct 0 is IO or IOI
  | .ioOther funct _ _ src _ => decide (funct ≠ 0) && src.fitsIo

/-- The well-formed instructions, as a proposition. -/
abbrev WellFormed (i : Instr) : Prop := wellFormed i = true

end Sys2Proof
end

