-- ==== Sys2Proof/Decode.lean ====
section
/-! DEFINITION. The decoder (30_encoding.md R100 to R128), total on any bytes, and after it the encoder.
`decodeFields` is the spec's own decoder, which cannot fail (R119, R120). `toInstr` adds the function-code check that each unit
makes before anything else (R128, R409): a word whose funct its unit rejects is no instruction of the table and is rejected by name;
the step turns the rejection into that unit's error. -/

namespace Sys2Proof

/-! ## Bit fields -/

/-- R7: the unsigned value of the n-bit field of w at offset o. -/
def extract (w : Word) (o n : Nat) : BitVec n := w.extractLsb' o n

/-- R8: an n-bit field sign-extended to 32 bits. -/
def sext {n : Nat} (v : BitVec n) : Word := v.signExtend 32

/-- R7: an n-bit field with zero upper bits. -/
def zext {n : Nat} (v : BitVec n) : Word := v.setWidth 32

/-- R53: the four bytes of a word, the least significant at the lowest address. -/
def leBytes (w : Word) : List Byte :=
  [w.extractLsb' 0 8, w.extractLsb' 8 8, w.extractLsb' 16 8, w.extractLsb' 24 8]

/-- R53: the word that four bytes make, the first the least significant. -/
def ofLeBytes (b0 b1 b2 b3 : Byte) : Word := b3 ++ b2 ++ b1 ++ b0

/-! ## Number maps -/

/-- R104, R120: OPCODE_MAP[w[3:1]]. -/
def Opcode.ofBits (c : Config) (b : BitVec 3) : Opcode := c.opcodeMap[b.toNat]'b.isLt

/-- The bits of an opcode in the reference OPCODE_MAP (D2), for the encoder. -/
def Opcode.bits : Opcode → BitVec 3
  | .compressed => 0 | .load => 1 | .func => 2 | .store => 3
  | .arith => 4 | .io => 5 | .arithSkip => 6 | .immUpper => 7

/-- R204: ALU_FUNCT_MAP for functs 0 to 21, the comparisons 22 to 31. A funct outside 0 to 31 names no function (R202). -/
def AluOp.ofFunct (c : Config) (f : BitVec 13) : Option AluOp :=
  if h : f.toNat < 22 then some (c.aluFunctMap[f.toNat]'h)
  else
    match f.toNat with
    | 22 => some .seq | 23 => some .sne | 24 => some .sgtu | 25 => some .sgt | 26 => some .sgeu
    | 27 => some .sge | 28 => some .sltu | 29 => some .slt | 30 => some .sleu | 31 => some .sle
    | _ => none

/-- The function number of an operation in the reference ALU_FUNCT_MAP (D8), for the encoder. -/
def AluOp.funct : AluOp → BitVec 5
  | .add => 0 | .sub => 1 | .and => 2 | .or => 3 | .xor => 4 | .not => 5 | .mulu => 6 | .mulhu => 7
  | .mul => 8 | .mulh => 9 | .divu => 10 | .remu => 11 | .div => 12 | .rem => 13 | .shl => 14 | .shr => 15
  | .sal => 16 | .sar => 17 | .rol => 18 | .ror => 19 | .f20 => 20 | .f21 => 21 | .seq => 22 | .sne => 23
  | .sgtu => 24 | .sgt => 25 | .sgeu => 26 | .sge => 27 | .sltu => 28 | .slt => 29 | .sleu => 30 | .sle => 31

/-- R271, D13: load functs 0 to 4; the others are unknown (R277). -/
def LoadOp.ofFunct (f : BitVec 13) : Option LoadOp :=
  match f.toNat with
  | 0 => some .lw | 1 => some .lhu | 2 => some .lh | 3 => some .lbu | 4 => some .lb
  | _ => none

/-- The function number of a load. -/
def LoadOp.funct : LoadOp → BitVec 5
  | .lw => 0 | .lhu => 1 | .lh => 2 | .lbu => 3 | .lb => 4

/-- R280, D13: store functs 0 to 2; the others are unknown (R284). -/
def StoreOp.ofFunct (f : BitVec 13) : Option StoreOp :=
  match f.toNat with
  | 0 => some .sw | 1 => some .sh | 2 => some .sb
  | _ => none

/-- The function number of a store. -/
def StoreOp.funct : StoreOp → BitVec 5
  | .sw => 0 | .sh => 1 | .sb => 2

/-! ## The immediates -/

/-- R113: the A-immediate. -/
def immA (w : Word) : Word := sext (extract w 19 13)

/-- R114: the S-immediate, w[31:29] : w[23:19] : w[8:4]. -/
def immS (w : Word) : Word := sext (n := 13) (extract w 29 3 ++ extract w 19 5 ++ extract w 4 5)

/-- R115: the F-immediate, its bit 0 cleared; FIMM_WIDTH bits at offset 13 (D5). -/
def immF (fw : FimmWidth) (w : Word) : Word :=
  match fw with
  | .twelve => sext (extract w 13 12) &&& 0xFFFFFFFE
  | .eleven => sext (extract w 13 11) &&& 0xFFFFFFFE

/-- R116: the I-immediate. -/
def immI (w : Word) : Word := zext (extract w 19 5)

/-- R117: the U-immediate, the upper 19 bits in place. -/
def immU (w : Word) : Word := w &&& 0xFFFFE000

/-! ## The spec's decoder -/

/-- R10: the decoded Instruction record, but for the field `p`, which no rule reads (R118). -/
structure Fields where
  opcode : Opcode
  isImm : Bool
  funct : BitVec 13
  rd : Reg
  rs1 : Reg
  rs2 : Reg
  rs3 : Reg
  imm : Word
deriving DecidableEq, Repr

/-- R104: the opcode of a word. -/
def opcodeOf (c : Config) (w : Word) : Opcode := Opcode.ofBits c (extract w 1 3)

/-- R103: bit 0, forced true for ImmUpper. -/
def isImmOf (c : Config) (w : Word) : Bool :=
  match opcodeOf c w with
  | .immUpper => true
  | .compressed | .load | .func | .store | .arith | .io | .arithSkip => w.getLsbD 0

/-- R108 to R112: the function code, zero-extended to 13 bits. -/
def functOf (c : Config) (w : Word) : BitVec 13 :=
  match opcodeOf c w with
  | .arith =>
    if w.getLsbD 0 then (extract w 9 5).setWidth 13
    else extract w 24 5 ++ extract w 29 3 ++ extract w 9 5
  | .io => (extract w 29 3 ++ extract w 9 5).setWidth 13
  | .immUpper => (extract w 9 4).setWidth 13
  | .func => (extract w 9 1).setWidth 13
  | .compressed | .load | .store | .arithSkip => (extract w 9 5).setWidth 13

/-- R113 to R117: the immediate of the opcode's shape. -/
def immOf (c : Config) (w : Word) : Word :=
  match opcodeOf c w with
  | .immUpper => immU w
  | .store => immS w
  | .func => immF c.fimmWidth w
  | .io => immI w
  | .compressed | .load | .arith | .arithSkip => immA w

/-- R120: the decoder, total on all 2^32 words (R119). Store forces rd to 0 (R106), ImmUpper forces rs1 to rd (R107). -/
def decodeFields (c : Config) (w : Word) : Fields :=
  { opcode := opcodeOf c w
    isImm := isImmOf c w
    funct := functOf c w
    rd := match opcodeOf c w with
      | .store => 0
      | .compressed | .load | .func | .arith | .io | .arithSkip | .immUpper => extract w 4 5
    rs1 := match opcodeOf c w with
      | .immUpper => extract w 4 5
      | .compressed | .load | .func | .store | .arith | .io | .arithSkip => extract w 14 5
    rs2 := extract w 19 5
    rs3 := extract w 24 5
    imm := immOf c w }

/-! ## From fields to an instruction -/

/-- Why bytes are no instruction: the unit's function check fails (R128), or there are fewer than four bytes. -/
inductive DecodeReject where
  /-- Register-register Arith with a funct of 32 or more (R202). -/
  | arithmeticFunct (funct : BitVec 13)
  /-- Load with a funct of 5 or more (R277). -/
  | loadFunct (funct : BitVec 13)
  /-- Store with a funct of 3 or more (R284). -/
  | storeFunct (funct : BitVec 13)
  /-- Fewer than four bytes; a fetch never gives this (R100). -/
  | truncated
deriving DecidableEq, Repr

/-- R154: the immediate replaces the second operand when is_imm is set. -/
def Fields.src2 (f : Fields) : Src2 := if f.isImm then .imm f.imm else .reg f.rs2

/-- The Arith instruction of an operation (41_arith.md R200). -/
def arithInstr (op : AluOp) (rd rs1 : Reg) (src : Src2) : Instr :=
  match op, src with
  | .add, .reg rs2 => .add rd rs1 rs2 | .add, .imm v => .addI rd rs1 v
  | .sub, .reg rs2 => .sub rd rs1 rs2 | .sub, .imm v => .subI rd rs1 v
  | .and, .reg rs2 => .and rd rs1 rs2 | .and, .imm v => .andI rd rs1 v
  | .or, .reg rs2 => .or rd rs1 rs2 | .or, .imm v => .orI rd rs1 v
  | .xor, .reg rs2 => .xor rd rs1 rs2 | .xor, .imm v => .xorI rd rs1 v
  | .not, .reg rs2 => .not rd rs1 rs2 | .not, .imm v => .notI rd rs1 v
  | .mulu, .reg rs2 => .mulu rd rs1 rs2 | .mulu, .imm v => .muluI rd rs1 v
  | .mulhu, .reg rs2 => .mulhu rd rs1 rs2 | .mulhu, .imm v => .mulhuI rd rs1 v
  | .mul, .reg rs2 => .mul rd rs1 rs2 | .mul, .imm v => .mulI rd rs1 v
  | .mulh, .reg rs2 => .mulh rd rs1 rs2 | .mulh, .imm v => .mulhI rd rs1 v
  | .divu, .reg rs2 => .divu rd rs1 rs2 | .divu, .imm v => .divuI rd rs1 v
  | .remu, .reg rs2 => .remu rd rs1 rs2 | .remu, .imm v => .remuI rd rs1 v
  | .div, .reg rs2 => .div rd rs1 rs2 | .div, .imm v => .divI rd rs1 v
  | .rem, .reg rs2 => .rem rd rs1 rs2 | .rem, .imm v => .remI rd rs1 v
  | .shl, .reg rs2 => .shl rd rs1 rs2 | .shl, .imm v => .shlI rd rs1 v
  | .shr, .reg rs2 => .shr rd rs1 rs2 | .shr, .imm v => .shrI rd rs1 v
  | .sal, .reg rs2 => .sal rd rs1 rs2 | .sal, .imm v => .salI rd rs1 v
  | .sar, .reg rs2 => .sar rd rs1 rs2 | .sar, .imm v => .sarI rd rs1 v
  | .rol, .reg rs2 => .rol rd rs1 rs2 | .rol, .imm v => .rolI rd rs1 v
  | .ror, .reg rs2 => .ror rd rs1 rs2 | .ror, .imm v => .rorI rd rs1 v
  | .f20, .reg rs2 => .arithF20 rd rs1 rs2 | .f20, .imm v => .arithF20I rd rs1 v
  | .f21, .reg rs2 => .arithF21 rd rs1 rs2 | .f21, .imm v => .arithF21I rd rs1 v
  | .seq, .reg rs2 => .seq rd rs1 rs2 | .seq, .imm v => .seqI rd rs1 v
  | .sne, .reg rs2 => .sne rd rs1 rs2 | .sne, .imm v => .sneI rd rs1 v
  | .sgtu, .reg rs2 => .sgtu rd rs1 rs2 | .sgtu, .imm v => .sgtuI rd rs1 v
  | .sgt, .reg rs2 => .sgt rd rs1 rs2 | .sgt, .imm v => .sgtI rd rs1 v
  | .sgeu, .reg rs2 => .sgeu rd rs1 rs2 | .sgeu, .imm v => .sgeuI rd rs1 v
  | .sge, .reg rs2 => .sge rd rs1 rs2 | .sge, .imm v => .sgeI rd rs1 v
  | .sltu, .reg rs2 => .sltu rd rs1 rs2 | .sltu, .imm v => .sltuI rd rs1 v
  | .slt, .reg rs2 => .slt rd rs1 rs2 | .slt, .imm v => .sltI rd rs1 v
  | .sleu, .reg rs2 => .sleu rd rs1 rs2 | .sleu, .imm v => .sleuI rd rs1 v
  | .sle, .reg rs2 => .sle rd rs1 rs2 | .sle, .imm v => .sleI rd rs1 v

/-- The ArithSkip instruction of an operation (41_arith.md R201). -/
def arithSkipInstr (op : AluOp) (rd rs1 : Reg) (src : Src2) : Instr :=
  match op, src with
  | .add, .reg rs2 => .addSk rd rs1 rs2 | .add, .imm v => .addISk rd rs1 v
  | .sub, .reg rs2 => .subSk rd rs1 rs2 | .sub, .imm v => .subISk rd rs1 v
  | .and, .reg rs2 => .andSk rd rs1 rs2 | .and, .imm v => .andISk rd rs1 v
  | .or, .reg rs2 => .orSk rd rs1 rs2 | .or, .imm v => .orISk rd rs1 v
  | .xor, .reg rs2 => .xorSk rd rs1 rs2 | .xor, .imm v => .xorISk rd rs1 v
  | .not, .reg rs2 => .notSk rd rs1 rs2 | .not, .imm v => .notISk rd rs1 v
  | .mulu, .reg rs2 => .muluSk rd rs1 rs2 | .mulu, .imm v => .muluISk rd rs1 v
  | .mulhu, .reg rs2 => .mulhuSk rd rs1 rs2 | .mulhu, .imm v => .mulhuISk rd rs1 v
  | .mul, .reg rs2 => .mulSk rd rs1 rs2 | .mul, .imm v => .mulISk rd rs1 v
  | .mulh, .reg rs2 => .mulhSk rd rs1 rs2 | .mulh, .imm v => .mulhISk rd rs1 v
  | .divu, .reg rs2 => .divuSk rd rs1 rs2 | .divu, .imm v => .divuISk rd rs1 v
  | .remu, .reg rs2 => .remuSk rd rs1 rs2 | .remu, .imm v => .remuISk rd rs1 v
  | .div, .reg rs2 => .divSk rd rs1 rs2 | .div, .imm v => .divISk rd rs1 v
  | .rem, .reg rs2 => .remSk rd rs1 rs2 | .rem, .imm v => .remISk rd rs1 v
  | .shl, .reg rs2 => .shlSk rd rs1 rs2 | .shl, .imm v => .shlISk rd rs1 v
  | .shr, .reg rs2 => .shrSk rd rs1 rs2 | .shr, .imm v => .shrISk rd rs1 v
  | .sal, .reg rs2 => .salSk rd rs1 rs2 | .sal, .imm v => .salISk rd rs1 v
  | .sar, .reg rs2 => .sarSk rd rs1 rs2 | .sar, .imm v => .sarISk rd rs1 v
  | .rol, .reg rs2 => .rolSk rd rs1 rs2 | .rol, .imm v => .rolISk rd rs1 v
  | .ror, .reg rs2 => .rorSk rd rs1 rs2 | .ror, .imm v => .rorISk rd rs1 v
  | .f20, .reg rs2 => .arithF20Sk rd rs1 rs2 | .f20, .imm v => .arithF20ISk rd rs1 v
  | .f21, .reg rs2 => .arithF21Sk rd rs1 rs2 | .f21, .imm v => .arithF21ISk rd rs1 v
  | .seq, .reg rs2 => .seqSk rd rs1 rs2 | .seq, .imm v => .seqISk rd rs1 v
  | .sne, .reg rs2 => .sneSk rd rs1 rs2 | .sne, .imm v => .sneISk rd rs1 v
  | .sgtu, .reg rs2 => .sgtuSk rd rs1 rs2 | .sgtu, .imm v => .sgtuISk rd rs1 v
  | .sgt, .reg rs2 => .sgtSk rd rs1 rs2 | .sgt, .imm v => .sgtISk rd rs1 v
  | .sgeu, .reg rs2 => .sgeuSk rd rs1 rs2 | .sgeu, .imm v => .sgeuISk rd rs1 v
  | .sge, .reg rs2 => .sgeSk rd rs1 rs2 | .sge, .imm v => .sgeISk rd rs1 v
  | .sltu, .reg rs2 => .sltuSk rd rs1 rs2 | .sltu, .imm v => .sltuISk rd rs1 v
  | .slt, .reg rs2 => .sltSk rd rs1 rs2 | .slt, .imm v => .sltISk rd rs1 v
  | .sleu, .reg rs2 => .sleuSk rd rs1 rs2 | .sleu, .imm v => .sleuISk rd rs1 v
  | .sle, .reg rs2 => .sleSk rd rs1 rs2 | .sle, .imm v => .sleISk rd rs1 v

/-- The ImmUpper instruction of an operation (42_immupper.md R252 to R259). -/
def immuInstr (op : ImmuOp) (rd : Reg) (imm : Word) : Instr :=
  match op with
  | .add => .uadd rd imm | .sub => .usub rd imm | .and => .uand rd imm | .or => .uor rd imm
  | .xor => .uxor rd imm | .merge => .umerge rd imm | .f6 => .immUpperF6 rd imm | .f7 => .immUpperF7 rd imm

/-- The ImmUpper instruction of a funct (R250): IMMU_FUNCT_MAP for functs 0 to 7; functs 8 to 15 are the bad ones (R251). -/
def immUpperInstr (c : Config) (f : BitVec 4) (rd : Reg) (imm : Word) : Instr :=
  if h : f.toNat < 8 then immuInstr (c.immuFunctMap[f.toNat]'h) rd imm else .immUpperBadFunct f rd imm

/-- The Load instruction of a function (43_loadstore.md R272 to R276). -/
def loadInstr (op : LoadOp) (rd rs1 : Reg) (src : Src2) : Instr :=
  match op, src with
  | .lw, .reg rs2 => .lw rd rs1 rs2 | .lw, .imm v => .lwI rd rs1 v
  | .lhu, .reg rs2 => .lhu rd rs1 rs2 | .lhu, .imm v => .lhuI rd rs1 v
  | .lh, .reg rs2 => .lh rd rs1 rs2 | .lh, .imm v => .lhI rd rs1 v
  | .lbu, .reg rs2 => .lbu rd rs1 rs2 | .lbu, .imm v => .lbuI rd rs1 v
  | .lb, .reg rs2 => .lb rd rs1 rs2 | .lb, .imm v => .lbI rd rs1 v

/-- The Store instruction of a function (43_loadstore.md R281 to R283). -/
def storeInstr (op : StoreOp) (rs3 rs1 : Reg) (src : Src2) : Instr :=
  match op, src with
  | .sw, .reg rs2 => .sw rs3 rs1 rs2 | .sw, .imm v => .swI rs3 rs1 v
  | .sh, .reg rs2 => .sh rs3 rs1 rs2 | .sh, .imm v => .shI rs3 rs1 v
  | .sb, .reg rs2 => .sb rs3 rs1 rs2 | .sb, .imm v => .sbI rs3 rs1 v

/-- The Func instruction of the function bit (44_func.md R300 to R302): a return reads rs1 in both modes. -/
def funcInstr (bit : Bool) (rd rs1 : Reg) (src : Src2) : Instr :=
  match bit, src with
  | false, .reg rs2 => .call rd rs2
  | false, .imm v => .callI rd v
  | true, .reg _ => .ret rs1
  | true, .imm _ => .ret rs1

/-- The Io instruction of a funct (45_io.md R321): funct 0 is IO or IOI, every other funct the device's. -/
def ioInstr (funct : BitVec 8) (rd rs1 : Reg) (src : Src2) (rs3 : Reg) : Instr :=
  if funct = 0 then
    match src with
    | .reg rs2 => .io rd rs1 rs2 rs3
    | .imm v => .ioI rd rs1 v rs3
  else .ioOther funct rd rs1 src rs3

/-- The instruction of decoded fields, or the unit's rejection of the funct (R128). -/
def Fields.toInstr (c : Config) (f : Fields) : Except DecodeReject Instr :=
  match f.opcode with
  | .compressed => .ok .compressed
  | .load =>
    match LoadOp.ofFunct f.funct with
    | some op => .ok (loadInstr op f.rd f.rs1 f.src2)
    | none => .error (.loadFunct f.funct)
  | .func => .ok (funcInstr (f.funct.getLsbD 0) f.rd f.rs1 f.src2)
  | .store =>
    match StoreOp.ofFunct f.funct with
    | some op => .ok (storeInstr op f.rs3 f.rs1 f.src2)
    | none => .error (.storeFunct f.funct)
  | .arith =>
    match AluOp.ofFunct c f.funct with
    | some op => .ok (arithInstr op f.rd f.rs1 f.src2)
    | none => .error (.arithmeticFunct f.funct)
  | .io => .ok (ioInstr (f.funct.setWidth 8) f.rd f.rs1 f.src2 f.rs3)
  | .arithSkip =>
    match AluOp.ofFunct c f.funct with
    | some op => .ok (arithSkipInstr op f.rd f.rs1 f.src2)
    | none => .error (.arithmeticFunct f.funct)
  | .immUpper => .ok (immUpperInstr c (f.funct.setWidth 4) f.rd f.imm)

/-- The instruction of a word, in a core constructed with c. -/
def decodeWith (c : Config) (w : Word) : Except DecodeReject Instr := (decodeFields c w).toInstr c

/-- The instruction of a word in the reference encoding, the one of spec/opcode_table.json. -/
def decode (w : Word) : Except DecodeReject Instr := decodeWith Config.reference w

/-- The first instruction of a byte sequence in memory order, and the bytes after it (R100, R101). -/
def decodeBytes (bs : List Byte) : Except DecodeReject (Instr × List Byte) :=
  match bs with
  | b0 :: b1 :: b2 :: b3 :: rest =>
    match decode (ofLeBytes b0 b1 b2 b3) with
    | .ok i => .ok (i, rest)
    | .error e => .error e
  | _ => .error .truncated

/-- The instruction of the low nbits bits of w, the bits above them zero, laid out as the memory holds them (R53, R101). -/
def decodeTableWord (nbits w : Nat) : Option Instr :=
  match decodeBytes (leBytes (BitVec.ofNat 32 (w % 2 ^ nbits))) with
  | .ok (i, _) => some i
  | .error _ => none

/-! ## The encoder -/

/-- R102: a word from its eight pieces, f_mid : f_hi : rs2 : rs1 : f_lo : rd : op : i. -/
def pack (mid : BitVec 3) (hi rs2 rs1 lo rd : BitVec 5) (op : Opcode) (i : Bool) : Word :=
  mid ++ hi ++ rs2 ++ rs1 ++ lo ++ rd ++ op.bits ++ BitVec.ofBool i

/-- R121: format R with the bits it ignores zero; hi carries the data register of a Store. -/
def encodeR (op : Opcode) (lo rd rs1 rs2 hi : BitVec 5) : Word := pack 0 hi rs2 rs1 lo rd op false

/-- R122: format A. -/
def encodeA (op : Opcode) (lo rd rs1 : BitVec 5) (imm : Word) : Word :=
  pack (imm.extractLsb' 10 3) (imm.extractLsb' 5 5) (imm.extractLsb' 0 5) rs1 lo rd op true

/-- R123: format S. -/
def encodeS (lo rs3 rs1 : BitVec 5) (imm : Word) : Word :=
  pack (imm.extractLsb' 10 3) rs3 (imm.extractLsb' 5 5) rs1 lo (imm.extractLsb' 0 5) .store true

/-- R124: format F for a call: the immediate's 12 bits in word bits 24:13. -/
def encodeF (rd : BitVec 5) (imm : Word) : Word :=
  pack 0 ((imm.extractLsb' 11 1).setWidth 5) (imm.extractLsb' 6 5) (imm.extractLsb' 1 5)
    (imm.extractLsb' 0 1 ++ (0 : BitVec 4)) rd .func true

/-- R121, R125: the Io formats. -/
def encodeIo (funct : BitVec 8) (rd rs1 : BitVec 5) (src : Src2) (rs3 : BitVec 5) : Word :=
  match src with
  | .reg rs2 => pack (funct.extractLsb' 5 3) rs3 rs2 rs1 (funct.extractLsb' 0 5) rd .io false
  | .imm v => pack (funct.extractLsb' 5 3) rs3 (v.extractLsb' 0 5) rs1 (funct.extractLsb' 0 5) rd .io true

/-- R126: format U, bit 0 written as 0 (the decoder ignores it, R103). -/
def encodeU (funct : BitVec 4) (rd : BitVec 5) (imm : Word) : Word :=
  pack (imm.extractLsb' 29 3) (imm.extractLsb' 24 5) (imm.extractLsb' 19 5) (imm.extractLsb' 14 5)
    (imm.extractLsb' 13 1 ++ funct) rd .immUpper false

/-- The word of a well-formed instruction in the reference encoding, every ignored bit zero (R130; log 24). -/
def encode : Instr → Word
  | .add rd rs1 rs2 => encodeR .arith AluOp.add.funct rd rs1 rs2 0
  | .addI rd rs1 imm => encodeA .arith AluOp.add.funct rd rs1 imm
  | .sub rd rs1 rs2 => encodeR .arith AluOp.sub.funct rd rs1 rs2 0
  | .subI rd rs1 imm => encodeA .arith AluOp.sub.funct rd rs1 imm
  | .and rd rs1 rs2 => encodeR .arith AluOp.and.funct rd rs1 rs2 0
  | .andI rd rs1 imm => encodeA .arith AluOp.and.funct rd rs1 imm
  | .or rd rs1 rs2 => encodeR .arith AluOp.or.funct rd rs1 rs2 0
  | .orI rd rs1 imm => encodeA .arith AluOp.or.funct rd rs1 imm
  | .xor rd rs1 rs2 => encodeR .arith AluOp.xor.funct rd rs1 rs2 0
  | .xorI rd rs1 imm => encodeA .arith AluOp.xor.funct rd rs1 imm
  | .not rd rs1 rs2 => encodeR .arith AluOp.not.funct rd rs1 rs2 0
  | .notI rd rs1 imm => encodeA .arith AluOp.not.funct rd rs1 imm
  | .mulu rd rs1 rs2 => encodeR .arith AluOp.mulu.funct rd rs1 rs2 0
  | .muluI rd rs1 imm => encodeA .arith AluOp.mulu.funct rd rs1 imm
  | .mulhu rd rs1 rs2 => encodeR .arith AluOp.mulhu.funct rd rs1 rs2 0
  | .mulhuI rd rs1 imm => encodeA .arith AluOp.mulhu.funct rd rs1 imm
  | .mul rd rs1 rs2 => encodeR .arith AluOp.mul.funct rd rs1 rs2 0
  | .mulI rd rs1 imm => encodeA .arith AluOp.mul.funct rd rs1 imm
  | .mulh rd rs1 rs2 => encodeR .arith AluOp.mulh.funct rd rs1 rs2 0
  | .mulhI rd rs1 imm => encodeA .arith AluOp.mulh.funct rd rs1 imm
  | .divu rd rs1 rs2 => encodeR .arith AluOp.divu.funct rd rs1 rs2 0
  | .divuI rd rs1 imm => encodeA .arith AluOp.divu.funct rd rs1 imm
  | .remu rd rs1 rs2 => encodeR .arith AluOp.remu.funct rd rs1 rs2 0
  | .remuI rd rs1 imm => encodeA .arith AluOp.remu.funct rd rs1 imm
  | .div rd rs1 rs2 => encodeR .arith AluOp.div.funct rd rs1 rs2 0
  | .divI rd rs1 imm => encodeA .arith AluOp.div.funct rd rs1 imm
  | .rem rd rs1 rs2 => encodeR .arith AluOp.rem.funct rd rs1 rs2 0
  | .remI rd rs1 imm => encodeA .arith AluOp.rem.funct rd rs1 imm
  | .shl rd rs1 rs2 => encodeR .arith AluOp.shl.funct rd rs1 rs2 0
  | .shlI rd rs1 imm => encodeA .arith AluOp.shl.funct rd rs1 imm
  | .shr rd rs1 rs2 => encodeR .arith AluOp.shr.funct rd rs1 rs2 0
  | .shrI rd rs1 imm => encodeA .arith AluOp.shr.funct rd rs1 imm
  | .sal rd rs1 rs2 => encodeR .arith AluOp.sal.funct rd rs1 rs2 0
  | .salI rd rs1 imm => encodeA .arith AluOp.sal.funct rd rs1 imm
  | .sar rd rs1 rs2 => encodeR .arith AluOp.sar.funct rd rs1 rs2 0
  | .sarI rd rs1 imm => encodeA .arith AluOp.sar.funct rd rs1 imm
  | .rol rd rs1 rs2 => encodeR .arith AluOp.rol.funct rd rs1 rs2 0
  | .rolI rd rs1 imm => encodeA .arith AluOp.rol.funct rd rs1 imm
  | .ror rd rs1 rs2 => encodeR .arith AluOp.ror.funct rd rs1 rs2 0
  | .rorI rd rs1 imm => encodeA .arith AluOp.ror.funct rd rs1 imm
  | .arithF20 rd rs1 rs2 => encodeR .arith AluOp.f20.funct rd rs1 rs2 0
  | .arithF20I rd rs1 imm => encodeA .arith AluOp.f20.funct rd rs1 imm
  | .arithF21 rd rs1 rs2 => encodeR .arith AluOp.f21.funct rd rs1 rs2 0
  | .arithF21I rd rs1 imm => encodeA .arith AluOp.f21.funct rd rs1 imm
  | .seq rd rs1 rs2 => encodeR .arith AluOp.seq.funct rd rs1 rs2 0
  | .seqI rd rs1 imm => encodeA .arith AluOp.seq.funct rd rs1 imm
  | .sne rd rs1 rs2 => encodeR .arith AluOp.sne.funct rd rs1 rs2 0
  | .sneI rd rs1 imm => encodeA .arith AluOp.sne.funct rd rs1 imm
  | .sgtu rd rs1 rs2 => encodeR .arith AluOp.sgtu.funct rd rs1 rs2 0
  | .sgtuI rd rs1 imm => encodeA .arith AluOp.sgtu.funct rd rs1 imm
  | .sgt rd rs1 rs2 => encodeR .arith AluOp.sgt.funct rd rs1 rs2 0
  | .sgtI rd rs1 imm => encodeA .arith AluOp.sgt.funct rd rs1 imm
  | .sgeu rd rs1 rs2 => encodeR .arith AluOp.sgeu.funct rd rs1 rs2 0
  | .sgeuI rd rs1 imm => encodeA .arith AluOp.sgeu.funct rd rs1 imm
  | .sge rd rs1 rs2 => encodeR .arith AluOp.sge.funct rd rs1 rs2 0
  | .sgeI rd rs1 imm => encodeA .arith AluOp.sge.funct rd rs1 imm
  | .sltu rd rs1 rs2 => encodeR .arith AluOp.sltu.funct rd rs1 rs2 0
  | .sltuI rd rs1 imm => encodeA .arith AluOp.sltu.funct rd rs1 imm
  | .slt rd rs1 rs2 => encodeR .arith AluOp.slt.funct rd rs1 rs2 0
  | .sltI rd rs1 imm => encodeA .arith AluOp.slt.funct rd rs1 imm
  | .sleu rd rs1 rs2 => encodeR .arith AluOp.sleu.funct rd rs1 rs2 0
  | .sleuI rd rs1 imm => encodeA .arith AluOp.sleu.funct rd rs1 imm
  | .sle rd rs1 rs2 => encodeR .arith AluOp.sle.funct rd rs1 rs2 0
  | .sleI rd rs1 imm => encodeA .arith AluOp.sle.funct rd rs1 imm
  | .addSk rd rs1 rs2 => encodeR .arithSkip AluOp.add.funct rd rs1 rs2 0
  | .addISk rd rs1 imm => encodeA .arithSkip AluOp.add.funct rd rs1 imm
  | .subSk rd rs1 rs2 => encodeR .arithSkip AluOp.sub.funct rd rs1 rs2 0
  | .subISk rd rs1 imm => encodeA .arithSkip AluOp.sub.funct rd rs1 imm
  | .andSk rd rs1 rs2 => encodeR .arithSkip AluOp.and.funct rd rs1 rs2 0
  | .andISk rd rs1 imm => encodeA .arithSkip AluOp.and.funct rd rs1 imm
  | .orSk rd rs1 rs2 => encodeR .arithSkip AluOp.or.funct rd rs1 rs2 0
  | .orISk rd rs1 imm => encodeA .arithSkip AluOp.or.funct rd rs1 imm
  | .xorSk rd rs1 rs2 => encodeR .arithSkip AluOp.xor.funct rd rs1 rs2 0
  | .xorISk rd rs1 imm => encodeA .arithSkip AluOp.xor.funct rd rs1 imm
  | .notSk rd rs1 rs2 => encodeR .arithSkip AluOp.not.funct rd rs1 rs2 0
  | .notISk rd rs1 imm => encodeA .arithSkip AluOp.not.funct rd rs1 imm
  | .muluSk rd rs1 rs2 => encodeR .arithSkip AluOp.mulu.funct rd rs1 rs2 0
  | .muluISk rd rs1 imm => encodeA .arithSkip AluOp.mulu.funct rd rs1 imm
  | .mulhuSk rd rs1 rs2 => encodeR .arithSkip AluOp.mulhu.funct rd rs1 rs2 0
  | .mulhuISk rd rs1 imm => encodeA .arithSkip AluOp.mulhu.funct rd rs1 imm
  | .mulSk rd rs1 rs2 => encodeR .arithSkip AluOp.mul.funct rd rs1 rs2 0
  | .mulISk rd rs1 imm => encodeA .arithSkip AluOp.mul.funct rd rs1 imm
  | .mulhSk rd rs1 rs2 => encodeR .arithSkip AluOp.mulh.funct rd rs1 rs2 0
  | .mulhISk rd rs1 imm => encodeA .arithSkip AluOp.mulh.funct rd rs1 imm
  | .divuSk rd rs1 rs2 => encodeR .arithSkip AluOp.divu.funct rd rs1 rs2 0
  | .divuISk rd rs1 imm => encodeA .arithSkip AluOp.divu.funct rd rs1 imm
  | .remuSk rd rs1 rs2 => encodeR .arithSkip AluOp.remu.funct rd rs1 rs2 0
  | .remuISk rd rs1 imm => encodeA .arithSkip AluOp.remu.funct rd rs1 imm
  | .divSk rd rs1 rs2 => encodeR .arithSkip AluOp.div.funct rd rs1 rs2 0
  | .divISk rd rs1 imm => encodeA .arithSkip AluOp.div.funct rd rs1 imm
  | .remSk rd rs1 rs2 => encodeR .arithSkip AluOp.rem.funct rd rs1 rs2 0
  | .remISk rd rs1 imm => encodeA .arithSkip AluOp.rem.funct rd rs1 imm
  | .shlSk rd rs1 rs2 => encodeR .arithSkip AluOp.shl.funct rd rs1 rs2 0
  | .shlISk rd rs1 imm => encodeA .arithSkip AluOp.shl.funct rd rs1 imm
  | .shrSk rd rs1 rs2 => encodeR .arithSkip AluOp.shr.funct rd rs1 rs2 0
  | .shrISk rd rs1 imm => encodeA .arithSkip AluOp.shr.funct rd rs1 imm
  | .salSk rd rs1 rs2 => encodeR .arithSkip AluOp.sal.funct rd rs1 rs2 0
  | .salISk rd rs1 imm => encodeA .arithSkip AluOp.sal.funct rd rs1 imm
  | .sarSk rd rs1 rs2 => encodeR .arithSkip AluOp.sar.funct rd rs1 rs2 0
  | .sarISk rd rs1 imm => encodeA .arithSkip AluOp.sar.funct rd rs1 imm
  | .rolSk rd rs1 rs2 => encodeR .arithSkip AluOp.rol.funct rd rs1 rs2 0
  | .rolISk rd rs1 imm => encodeA .arithSkip AluOp.rol.funct rd rs1 imm
  | .rorSk rd rs1 rs2 => encodeR .arithSkip AluOp.ror.funct rd rs1 rs2 0
  | .rorISk rd rs1 imm => encodeA .arithSkip AluOp.ror.funct rd rs1 imm
  | .arithF20Sk rd rs1 rs2 => encodeR .arithSkip AluOp.f20.funct rd rs1 rs2 0
  | .arithF20ISk rd rs1 imm => encodeA .arithSkip AluOp.f20.funct rd rs1 imm
  | .arithF21Sk rd rs1 rs2 => encodeR .arithSkip AluOp.f21.funct rd rs1 rs2 0
  | .arithF21ISk rd rs1 imm => encodeA .arithSkip AluOp.f21.funct rd rs1 imm
  | .seqSk rd rs1 rs2 => encodeR .arithSkip AluOp.seq.funct rd rs1 rs2 0
  | .seqISk rd rs1 imm => encodeA .arithSkip AluOp.seq.funct rd rs1 imm
  | .sneSk rd rs1 rs2 => encodeR .arithSkip AluOp.sne.funct rd rs1 rs2 0
  | .sneISk rd rs1 imm => encodeA .arithSkip AluOp.sne.funct rd rs1 imm
  | .sgtuSk rd rs1 rs2 => encodeR .arithSkip AluOp.sgtu.funct rd rs1 rs2 0
  | .sgtuISk rd rs1 imm => encodeA .arithSkip AluOp.sgtu.funct rd rs1 imm
  | .sgtSk rd rs1 rs2 => encodeR .arithSkip AluOp.sgt.funct rd rs1 rs2 0
  | .sgtISk rd rs1 imm => encodeA .arithSkip AluOp.sgt.funct rd rs1 imm
  | .sgeuSk rd rs1 rs2 => encodeR .arithSkip AluOp.sgeu.funct rd rs1 rs2 0
  | .sgeuISk rd rs1 imm => encodeA .arithSkip AluOp.sgeu.funct rd rs1 imm
  | .sgeSk rd rs1 rs2 => encodeR .arithSkip AluOp.sge.funct rd rs1 rs2 0
  | .sgeISk rd rs1 imm => encodeA .arithSkip AluOp.sge.funct rd rs1 imm
  | .sltuSk rd rs1 rs2 => encodeR .arithSkip AluOp.sltu.funct rd rs1 rs2 0
  | .sltuISk rd rs1 imm => encodeA .arithSkip AluOp.sltu.funct rd rs1 imm
  | .sltSk rd rs1 rs2 => encodeR .arithSkip AluOp.slt.funct rd rs1 rs2 0
  | .sltISk rd rs1 imm => encodeA .arithSkip AluOp.slt.funct rd rs1 imm
  | .sleuSk rd rs1 rs2 => encodeR .arithSkip AluOp.sleu.funct rd rs1 rs2 0
  | .sleuISk rd rs1 imm => encodeA .arithSkip AluOp.sleu.funct rd rs1 imm
  | .sleSk rd rs1 rs2 => encodeR .arithSkip AluOp.sle.funct rd rs1 rs2 0
  | .sleISk rd rs1 imm => encodeA .arithSkip AluOp.sle.funct rd rs1 imm
  | .uadd rd imm => encodeU 0 rd imm
  | .usub rd imm => encodeU 1 rd imm
  | .uand rd imm => encodeU 2 rd imm
  | .uor rd imm => encodeU 3 rd imm
  | .uxor rd imm => encodeU 4 rd imm
  | .umerge rd imm => encodeU 5 rd imm
  | .immUpperF6 rd imm => encodeU 6 rd imm
  | .immUpperF7 rd imm => encodeU 7 rd imm
  | .immUpperBadFunct funct rd imm => encodeU funct rd imm
  | .lw rd rs1 rs2 => encodeR .load LoadOp.lw.funct rd rs1 rs2 0
  | .lwI rd rs1 imm => encodeA .load LoadOp.lw.funct rd rs1 imm
  | .lhu rd rs1 rs2 => encodeR .load LoadOp.lhu.funct rd rs1 rs2 0
  | .lhuI rd rs1 imm => encodeA .load LoadOp.lhu.funct rd rs1 imm
  | .lh rd rs1 rs2 => encodeR .load LoadOp.lh.funct rd rs1 rs2 0
  | .lhI rd rs1 imm => encodeA .load LoadOp.lh.funct rd rs1 imm
  | .lbu rd rs1 rs2 => encodeR .load LoadOp.lbu.funct rd rs1 rs2 0
  | .lbuI rd rs1 imm => encodeA .load LoadOp.lbu.funct rd rs1 imm
  | .lb rd rs1 rs2 => encodeR .load LoadOp.lb.funct rd rs1 rs2 0
  | .lbI rd rs1 imm => encodeA .load LoadOp.lb.funct rd rs1 imm
  | .sw rs3 rs1 rs2 => encodeR .store StoreOp.sw.funct 0 rs1 rs2 rs3
  | .swI rs3 rs1 imm => encodeS StoreOp.sw.funct rs3 rs1 imm
  | .sh rs3 rs1 rs2 => encodeR .store StoreOp.sh.funct 0 rs1 rs2 rs3
  | .shI rs3 rs1 imm => encodeS StoreOp.sh.funct rs3 rs1 imm
  | .sb rs3 rs1 rs2 => encodeR .store StoreOp.sb.funct 0 rs1 rs2 rs3
  | .sbI rs3 rs1 imm => encodeS StoreOp.sb.funct rs3 rs1 imm
  | .call rd rs2 => encodeR .func 0 rd 0 rs2 0
  | .callI rd imm => encodeF rd imm
  | .ret rs1 => encodeR .func 1 0 rs1 0 0
  | .io rd rs1 rs2 rs3 => encodeIo 0 rd rs1 (.reg rs2) rs3
  | .ioI rd rs1 imm rs3 => encodeIo 0 rd rs1 (.imm imm) rs3
  | .ioOther funct rd rs1 src rs3 => encodeIo funct rd rs1 src rs3
  | .compressed => 0

end Sys2Proof
end

