-- ==== Sys2Proof/Machine/State.lean ====
section
/-! DEFINITION. The state of one core as plain data (10_state.md R20, 20_memory.md R51), the reasons a cycle can stop
(60_exceptions.md R400), and the state right after reset (70_reset_and_hazards.md R450, R451). -/

namespace Sys2Proof.Machine

/-! ## The register file (10_state.md) -/

/-- One element of the window stack: 8 shared and 8 local slots (R20). -/
structure Frame where
  shared : Vector Word 8
  locals : Vector Word 8
deriving DecidableEq, Repr

/-- The all-zero frame that a call pushes (R28) and that construction pushes twice (R37). -/
def Frame.zero : Frame :=
  { shared := Vector.replicate 8 0, locals := Vector.replicate 8 0 }

/-- The register file (R20). The window stack is its top frame F[D-1], the second-from-top F[D-2], and the frames
F[D-3] to F[0] below them, so its depth is at least 2 by construction (R22). The program counter is `globals[2]` (R27). -/
structure RegFile where
  /-- G[0] to G[7]; G[0] holds what was written to selector 0 and is never read (R26, D32). -/
  globals : Vector Word 8
  top : Frame
  second : Frame
  /-- F[D-3] first, F[0] last. -/
  below : List Frame
deriving DecidableEq, Repr

/-- The depth D of the window stack (R20, R22). -/
def RegFile.depth (r : RegFile) : Nat := r.below.length + 2

/-! ## The memory (20_memory.md) -/

/-- The backend chosen at construction (R51): flat with its byte size (R57), sparse (R61), or split with the byte
length L of its image (R66). -/
inductive Backend where
  | flat (size : Nat)
  | sparse
  | split (imageLength : Nat)
deriving DecidableEq, Repr

/-- The memory of every backend. `cells` lists the bytes that are not zero, `blocks` the allocated 4096-byte block keys of
sparse storage (R61). The image of a split memory is the cells below its length (R66; log 18). -/
structure Memory where
  backend : Backend
  cells : List Host.Cell
  blocks : List Nat
deriving DecidableEq, Repr

/-- What a byte reads as that is readable and not listed: 0, as the spec says of flat memory (R58), of an allocated
block (R64); an image byte of value 0 is not listed either. A byte of an unallocated block is not readable at all (R62). -/
def Memory.unlisted : Byte := 0

/-- The memory errors: why an access fails (R52; 60_exceptions.md R400, R401). -/
inductive MemError where
  /-- A read of an unallocated block of sparse storage. Safe: the spec's own error. -/
  | uninit
  /-- The address is no multiple of the access width. Safe: the spec's own error. -/
  | unaligned
  /-- Outside the flat extent, or a write below the split image length where IMAGE_WRITE_POLICY is to fault. Safe: the spec's own error. -/
  | outOfBounds
deriving DecidableEq, Repr

/-! ## The I/O port (45_io.md) -/

/-- One byte written to a stream (R322). -/
structure IoByte where
  stream : Word
  byte : Byte
deriving DecidableEq, Repr

/-- The three access widths (20_memory.md R52). -/
inductive Width where
  | byte
  | half
  | word
deriving DecidableEq, Repr

/-- One write a device makes through the memory interface (R320). -/
structure IoWrite where
  width : Width
  addr : Word
  value : Word
deriving DecidableEq, Repr

/-- Why a device fails (R324). -/
inductive IoError where
  | unknownFunct
  | badDescriptor
  | memory (e : MemError)
deriving DecidableEq, Repr

/-- What a device answers (R320): a result with the writes it makes to memory and the bytes it emits, or an error. -/
inductive IoReply where
  | ok (value : Word) (writes : List IoWrite) (emitted : List IoByte)
  | err (e : IoError)
deriving DecidableEq, Repr

/-- The arguments the core gives a device (R320): the 8-bit funct and the three operand values. The fourth, the memory, is
the core's own. -/
structure IoCall where
  funct : BitVec 8
  s1 : Word
  s2 : Word
  s3 : Word
deriving DecidableEq, Repr

/-- The operators of a device's terms. -/
inductive IoOp where
  | add | sub | and | or | xor
deriving DecidableEq, Repr

/-- A value a device computes from the call and from memory, which it reads through the interface (R320, 20_memory.md R52). -/
inductive IoTerm where
  | const (v : Word)
  | funct
  | s1
  | s2
  | s3
  | read (w : Width) (addr : IoTerm)
  /-- How many bytes a read_slice gives (20_memory.md R70 to R73). -/
  | sliceLen (addr len : IoTerm)
  | bin (op : IoOp) (a b : IoTerm)
deriving DecidableEq, Repr

/-- A device's function of the call and the memory (R320), written out as data: what it tests, what it writes and emits, and
what it answers. Every function of the operands and of how each byte read and each byte write would end is one of these (log 10). -/
inductive IoProgram where
  /-- Success with the value of a term. -/
  | answer (value : IoTerm)
  /-- Failure. -/
  | fail (e : IoError)
  /-- One write to memory, if the rest succeeds. -/
  | store (w : Width) (addr value : IoTerm) (rest : IoProgram)
  /-- The low byte of a term emitted to a stream, if the rest succeeds. -/
  | emit (stream byte : IoTerm) (rest : IoProgram)
  /-- The bytes of a read_slice emitted to a stream, if the rest succeeds (20_memory.md R70). -/
  | emitSlice (stream addr len : IoTerm) (rest : IoProgram)
  /-- Whether two terms are equal. -/
  | ifEq (a b : IoTerm) (yes no : IoProgram)
  /-- Whether a term fails with a memory error of a kind. -/
  | ifFails (a : IoTerm) (e : MemError) (yes no : IoProgram)
  /-- Whether a write at a term would fail with a memory error of a kind: a device checks before it writes (R325). -/
  | ifWriteFails (w : Width) (addr : IoTerm) (e : MemError) (yes no : IoProgram)
deriving DecidableEq, Repr

/-- IO_DEVICE (00_scope.md R5, 45_io.md R320): none supplied; the reference device (R322, R323); or any other device: its
function at each of the next calls that succeed, and its function from then on. A device without a state of its own has an empty
`turns`; the list stands for how a device's own state, which is not core state, changes its function (DESIGN CHOICE, log 10). -/
inductive IoDevice where
  | absent
  | reference
  | supplied (turns : List IoProgram) (last : IoProgram)
deriving DecidableEq, Repr

/-- The I/O boundary: the device, and what it has emitted, oldest first (R322; the model's own record, log 10). -/
structure IoPort where
  device : IoDevice
  output : List IoByte
deriving DecidableEq, Repr

/-! ## The state -/

/-- The state of one core instance (10_state.md R20), its I/O port and its construction parameters (00_scope.md R5). -/
structure State where
  regs : RegFile
  mem : Memory
  io : IoPort
  cfg : Config
deriving DecidableEq, Repr

/-- The machine right after reset (70_reset_and_hazards.md R450, R451): globals and both frames 0, so the pc is 0, the
depth 2; memory of the reference backend, Split, with an empty image and no block; the reference device and parameters.
DESIGN CHOICE (unsafe, log 1): the image is a construction argument, and reset has the empty one. -/
def State.reset : State :=
  { regs :=
      { globals := Vector.replicate 8 0
        top := Frame.zero
        second := Frame.zero
        below := [] }
    mem := { backend := .split 0, cells := [], blocks := [] }
    io := { device := .reference, output := [] }
    cfg := Config.reference }

/-! ## Why a cycle stops -/

/-- The core errors (60_exceptions.md R400) and the fatal conditions (R406, R407). The state is the one before the cycle (R405). -/
inductive Fault where
  /-- Raised by a fetch, Load, Store or Io whose memory access fails (R401). Safe: the spec's own error. -/
  | memory (e : MemError)
  /-- Raised by register-register Arith with a funct of 32 or more (41_arith.md R202). Safe: the spec's own error. -/
  | arithmeticFunct
  /-- Raised by ImmUpper with a funct of 8 to 15 (42_immupper.md R251). Safe: the spec's own error. -/
  | immUpperFunct
  /-- Raised by Load with a funct of 5 to 31 (43_loadstore.md R277). Safe: the spec's own error. -/
  | loadFunct
  /-- Raised by Store with a funct of 3 to 31 (43_loadstore.md R284). Safe: the spec's own error. -/
  | storeFunct
  /-- Raised by Io when the device rejects the operation or none is supplied (45_io.md R320, R324). Safe: the spec's own error. -/
  | ioFunct
  /-- Raised by every Compressed word (46_compressed.md R340). Safe: the spec's own error. -/
  | compressedUnsupported
  /-- Fatal: a return at depth 2 (R406). Safe: the spec's own stop. -/
  | windowUnderflow
  /-- Fatal: a call at the bound of a bounded window stack (R407). Safe: the spec's own stop. -/
  | windowOverflow
deriving DecidableEq, Repr

/-- Instructions without a meaning (60_exceptions.md R408). A refusal changes no state. -/
inductive Refusal where
  /-- Raised by exec for an instruction this model has no meaning for yet. Safe: nothing follows. -/
  | notModelled (mnemonic : String)
  /-- Raised by Arith and ArithSkip with the two unassigned operations (41_arith.md R230, R231), under their reference functs 20
  and 21 whatever funct ALU_FUNCT_MAP gives them (log 5). Safe: the spec refuses them. -/
  | arithFunctUnassigned (funct : Nat)
  /-- Raised by ImmUpper with the two unassigned operations (42_immupper.md R258, R259), under their reference functs 6 and 7
  whatever funct IMMU_FUNCT_MAP gives them (log 5). Safe: the spec refuses them. -/
  | immUpperFunctUnassigned (funct : Nat)
deriving DecidableEq, Repr

/-- The outcome of one cycle (60_exceptions.md R400). -/
abbrev Result := Host.Outcome State Fault Refusal

end Sys2Proof.Machine
end

