-- ==== Sys2Proof/Machine/Ops.lean ====
section
/-! DEFINITION. The named operations over registers, windows, memory and the I/O port, the outcome a unit returns with its
writeback, and the ways a cycle stops. Every meaning is built from these. -/

namespace Sys2Proof.Machine

/-! ## Register selectors (10_state.md R24, R25) -/

/-- The slot a selector names: a global, a shared slot of the top frame, a local or a shared slot of the second (R24). -/
inductive Slot where
  | global (k : Fin 8)
  | topShared (k : Fin 8)
  | secondLocal (k : Fin 8)
  | secondShared (k : Fin 8)
deriving DecidableEq, Repr

/-- R24: the window mapping. -/
def slotOf (r : Reg) : Slot :=
  if r.toNat < 8 then .global ⟨r.toNat % 8, Nat.mod_lt _ (by decide)⟩
  else if r.toNat < 16 then .topShared ⟨r.toNat % 8, Nat.mod_lt _ (by decide)⟩
  else if r.toNat < 24 then .secondLocal ⟨r.toNat % 8, Nat.mod_lt _ (by decide)⟩
  else .secondShared ⟨r.toNat % 8, Nat.mod_lt _ (by decide)⟩

/-- The value of a slot. -/
def RegFile.getSlot (f : RegFile) : Slot → Word
  | .global k => f.globals[k.val]
  | .topShared k => f.top.shared[k.val]
  | .secondLocal k => f.second.locals[k.val]
  | .secondShared k => f.second.shared[k.val]

/-- A slot written; every other slot stays. -/
def RegFile.setSlot (f : RegFile) : Slot → Word → RegFile
  | .global k, v => { f with globals := f.globals.set k.val v }
  | .topShared k, v => { f with top := { f.top with shared := f.top.shared.set k.val v } }
  | .secondLocal k, v => { f with second := { f.second with locals := f.second.locals.set k.val v } }
  | .secondShared k, v => { f with second := { f.second with shared := f.second.shared.set k.val v } }

/-- R24, R26: the read of a selector; selector 0 reads as zero. -/
def RegFile.read (f : RegFile) (r : Reg) : Word := if r = 0 then 0 else f.getSlot (slotOf r)

/-- R25, R26: the write of a selector; selector 0 keeps the value in G[0], where no read finds it (D32, log 8). -/
def RegFile.write (f : RegFile) (r : Reg) (v : Word) : RegFile := f.setSlot (slotOf r) v

/-! ## The window stack (10_state.md R28, R29) -/

/-- R28: `call()` pushes an all-zero frame. -/
def RegFile.call (f : RegFile) : RegFile :=
  { f with top := Frame.zero, second := f.top, below := f.second :: f.below }

/-- R29: `return()` pops the top frame; none at depth 2. -/
def RegFile.ret (f : RegFile) : Option RegFile :=
  match f.below with
  | [] => none
  | g :: gs => some { f with top := f.second, second := g, below := gs }

/-! ## Registers and the program counter of a state -/

/-- `x[r]` (00_scope.md R9). -/
def State.reg (s : State) (r : Reg) : Word := s.regs.read r

/-- `x[r] <- v` (00_scope.md R9). -/
def State.setReg (s : State) (r : Reg) (v : Word) : State := { s with regs := s.regs.write r v }

/-- R27: the program counter is selector 2. -/
def State.pc (s : State) : Word := s.reg 2

/-- `pc <- t` (00_scope.md R9). -/
def State.setPc (s : State) (t : Word) : State := s.setReg 2 t

/-- PC_STEP (00_scope.md R5): what the pc advances by for one instruction. -/
def pcStepOf (c : Config) : Word :=
  match c.pcUnit with
  | .word => 1
  | .byte => 4

/-- R151: the byte address an instruction is fetched from. -/
def fetchAddrOf (c : Config) (pc : Word) : Word :=
  match c.pcUnit with
  | .word => pc * 4
  | .byte => pc

/-- R28, R32, R407: push a window, or the fatal overflow at the bound of a bounded stack. -/
def State.pushWindow (s : State) : Except Fault State :=
  match s.cfg.windowDepthMax with
  | none => .ok { s with regs := s.regs.call }
  | some n => if n ≤ s.regs.depth then .error .windowOverflow else .ok { s with regs := s.regs.call }

/-- R29, R406: pop a window, or the fatal underflow at depth 2. -/
def State.popWindow (s : State) : Except Fault State :=
  match s.regs.ret with
  | none => .error .windowUnderflow
  | some f => .ok { s with regs := f }

/-! ## Bytes of memory -/

/-- The byte listed at an address, else what an unlisted address reads as. -/
def cellsGet : List Host.Cell → Nat → Byte
  | [], _ => Memory.unlisted
  | (b, v) :: t, a => if b = a then v else cellsGet t a

/-- An entry put in its place in the address order. -/
def cellsInsert : List Host.Cell → Nat → Byte → List Host.Cell
  | [], a, v => [(a, v)]
  | (b, w) :: t, a, v => if a < b then (a, v) :: (b, w) :: t else (b, w) :: cellsInsert t a v

/-- One byte written: the old entry goes, and the new one is listed unless it is what an unlisted address reads as. -/
def cellsSet (l : List Host.Cell) (a : Nat) (v : Byte) : List Host.Cell :=
  let rest := l.filter (fun c => c.1 ≠ a)
  if v = Memory.unlisted then rest else cellsInsert rest a v

/-- The byte at an address. -/
def Memory.byteAt (m : Memory) (a : Nat) : Byte := cellsGet m.cells a

/-- The byte at an address written. -/
def Memory.setByte (m : Memory) (a : Nat) (v : Byte) : Memory := { m with cells := cellsSet m.cells a v }

/-! ## Blocks (20_memory.md R61) -/

/-- R61: the key of the 4096-byte block of an address. -/
def blockKey (a : Nat) : Nat := a / 4096

/-- A key put in its place among rising keys, once. -/
def insertKey : List Nat → Nat → List Nat
  | [], k => [k]
  | x :: t, k => if k < x then k :: x :: t else if k = x then x :: t else x :: insertKey t k

/-- R62: whether the block of an address is allocated. -/
def Memory.hasBlock (m : Memory) (a : Nat) : Bool := decide (blockKey a ∈ m.blocks)

/-- R64: the block of an address, allocated; its unlisted bytes read as zero. Flat memory has no blocks. -/
def Memory.allocate (m : Memory) (a : Nat) : Memory :=
  match m.backend with
  | .flat _ => m
  | .sparse => { m with blocks := insertKey m.blocks (blockKey a) }
  | .split _ => { m with blocks := insertKey m.blocks (blockKey a) }

/-! ## The access interface (20_memory.md R52 to R69) -/

/-- The number of bytes of a width (R52). -/
def Width.bytes : Width → Nat
  | .byte => 1
  | .half => 2
  | .word => 4

/-- R55: natural alignment. -/
def Width.aligned (w : Width) (a : Nat) : Bool := decide (a % w.bytes = 0)

/-- Why a read fails, alignment first (R56): flat range (R57, R58), unallocated block (R62), image or data region (R67). -/
def Memory.readError (m : Memory) (w : Width) (a : Nat) : Option MemError :=
  if w.aligned a then
    match m.backend with
    | .flat size => if a + w.bytes ≤ size then none else some .outOfBounds
    | .sparse => if m.hasBlock a then none else some .uninit
    | .split len => if a < len then none else if m.hasBlock a then none else some .uninit
  else some .unaligned

/-- R66: whether an address is in the immutable image of a split memory. -/
def Memory.inImage (m : Memory) (a : Nat) : Bool :=
  match m.backend with
  | .flat _ => false
  | .sparse => false
  | .split len => decide (a < len)

/-- R68, D21: what IMAGE_WRITE_POLICY makes of an aligned write into the image. -/
def imageWriteError (p : ImageWrites) : Option MemError :=
  match p with
  | .fault => some .outOfBounds
  | .ignore => none

/-- Why a write fails, alignment first (R56): flat range (R60), the immutable image (R68); a sparse write never (R64). -/
def Memory.writeError (m : Memory) (p : ImageWrites) (w : Width) (a : Nat) : Option MemError :=
  if w.aligned a then
    match m.backend with
    | .flat size => if a + w.bytes ≤ size then none else some .outOfBounds
    | .sparse => none
    | .split len => if a < len then imageWriteError p else none
  else some .unaligned

/-- R53: the little-endian value of the bytes at an address, zero-extended. -/
def Memory.valueAt (m : Memory) (w : Width) (a : Nat) : Word :=
  match w with
  | .byte => zext (m.byteAt a)
  | .half => zext (n := 16) (m.byteAt (a + 1) ++ m.byteAt a)
  | .word => ofLeBytes (m.byteAt a) (m.byteAt (a + 1)) (m.byteAt (a + 2)) (m.byteAt (a + 3))

/-- R54: the low bytes of a value put at an address, least significant first. -/
def Memory.putValue (m : Memory) (w : Width) (a : Nat) (v : Word) : Memory :=
  match w with
  | .byte => m.setByte a (extract v 0 8)
  | .half => (m.setByte a (extract v 0 8)).setByte (a + 1) (extract v 8 8)
  | .word => (((m.setByte a (extract v 0 8)).setByte (a + 1) (extract v 8 8)).setByte (a + 2)
      (extract v 16 8)).setByte (a + 3) (extract v 24 8)

/-- `MemRead` (R52): read8, read16, read32. It changes nothing (R75). -/
def Memory.read (m : Memory) (w : Width) (a : Word) : Except MemError Word :=
  match m.readError w a.toNat with
  | some e => .error e
  | none => .ok (m.valueAt w a.toNat)

/-- A write that does not fail: the block is allocated (R64), then the bytes are stored (R54); the image never changes (R66). -/
def Memory.store (m : Memory) (w : Width) (a : Nat) (v : Word) : Memory :=
  if m.inImage a then m else (m.allocate a).putValue w a v

/-- `MemWrite` (R52): write8, write16, write32, with the IMAGE_WRITE_POLICY of the core. -/
def Memory.write (m : Memory) (p : ImageWrites) (w : Width) (a v : Word) : Except MemError Memory :=
  match m.writeError p w a.toNat with
  | some e => .error e
  | none => .ok (m.store w a.toNat v)

/-- The n bytes from an address on. -/
def Memory.bytesFrom (m : Memory) (a n : Nat) : List Byte := (List.range n).map (fun k => m.byteAt (a + k))

/-- R70 to R73: read_slice, cut at the flat end, the block end or the image end; no alignment rule. -/
def Memory.readSlice (m : Memory) (a : Word) (len : Nat) : Except MemError (List Byte) :=
  let upTo (stop : Nat) : List Byte := m.bytesFrom a.toNat (min (a.toNat + len) stop - a.toNat)
  let blockEnd := (blockKey a.toNat + 1) * 4096
  match m.backend with
  | .flat size => if size ≤ a.toNat then .error .outOfBounds else .ok (upTo size)
  | .sparse => if m.hasBlock a.toNat then .ok (upTo blockEnd) else .error .uninit
  | .split imageLength =>
    if a.toNat < imageLength then .ok (upTo imageLength)
    else if m.hasBlock a.toNat then .ok (upTo blockEnd) else .error .uninit

/-- Whether the backend holds a byte at an address (R57, R61, R66). -/
def Memory.holds (m : Memory) (a : Nat) : Bool :=
  match m.backend with
  | .flat size => decide (a < size)
  | .sparse => m.hasBlock a
  | .split len => decide (a < len) || m.hasBlock a

/-- Which block keys a backend may list: none (flat), any of 20 bits (R61), those that reach past the image (R69). -/
def Memory.blockFits (m : Memory) (k : Nat) : Bool :=
  match m.backend with
  | .flat _ => false
  | .sparse => decide (k < 1048576)
  | .split len => decide (k < 1048576 ∧ len < (k + 1) * 4096)

/-- R66: the length of a split image is a multiple of 4. -/
def Backend.legal : Backend → Bool
  | .flat _ => true
  | .sparse => true
  | .split len => decide (len % 4 = 0)

/-- The one canonical form of a memory: addresses strictly rising, no listed byte equal to what an unlisted one reads as,
every listed byte held by the backend, block keys strictly rising and fitting, a legal image length. -/
abbrev Memory.wf (m : Memory) : Prop :=
  m.cells.Pairwise (fun c d => c.1 < d.1) ∧
  (∀ c ∈ m.cells, c.2 ≠ Memory.unlisted ∧ m.holds c.1 = true) ∧
  m.blocks.Pairwise (fun j k => j < k) ∧
  (∀ k ∈ m.blocks, m.blockFits k = true) ∧
  m.backend.legal = true

/-! ## Stopping a cycle (00_scope.md R9, 60_exceptions.md R404, R405) -/

/-- `raise E` and `fatal F` (R9): the cycle ends with the error and the state stays as it was. There is no trap entry:
no handler, no saved register, no mode (R404), and so no return from one (R413). -/
def raise (f : Fault) : Result := .fault f

/-- `refuse(reason)` (R9, R408). -/
def refuse (r : Refusal) : Result := .refused r

/-- R400, D34: the code of a core error; a fatal condition is none of them (R406). -/
def Fault.code : Fault → Option Nat
  | .memory .uninit => some 1
  | .memory .unaligned => some 2
  | .memory .outOfBounds => some 3
  | .arithmeticFunct => some 4
  | .immUpperFunct => some 5
  | .loadFunct => some 6
  | .storeFunct => some 7
  | .ioFunct => some 8
  | .compressedUnsupported => some 9
  | .windowUnderflow => none
  | .windowOverflow => none

/-- R128, R409: the error of the unit that rejects a funct. A fetch gives four bytes, so `truncated` never reaches a step;
it is named as the fetch's range error (DEDUCED, log 16). -/
def rejectFault : DecodeReject → Fault
  | .arithmeticFunct _ => .arithmeticFunct
  | .loadFunct _ => .loadFunct
  | .storeFunct _ => .storeFunct
  | .truncated => .memory .outOfBounds

/-! ## A unit's outcome and its writeback (40_cycle.md R156 to R162) -/

/-- R156: the Exec outcome. -/
inductive ExecOut where
  /-- Write v to rd, advance the pc one slot. -/
  | value (v : Word)
  /-- Write v to rd, advance two slots when v is not 0. -/
  | skip (v : Word)
  /-- Advance the pc one slot; no register write (the spec's `None`). -/
  | nothing
  /-- Push a window, go to the target, write the link to rd. -/
  | call (link target : Word)
  /-- Pop a window, go to the slot after the continuation. -/
  | ret (cont : Word)
deriving DecidableEq, Repr

/-- R158: the window update, the first step of writeback. -/
def windowUpdate (out : ExecOut) (s : State) : Except Fault State :=
  match out with
  | .value _ => .ok s
  | .skip _ => .ok s
  | .nothing => .ok s
  | .call _ _ => s.pushWindow
  | .ret _ => s.popWindow

/-- R159: the pc after an outcome, from the pc the cycle began with; all sums wrap (D31). -/
def nextPc (out : ExecOut) (step pc0 : Word) : Word :=
  match out with
  | .value _ => pc0 + step
  | .skip v => if v = 0 then pc0 + step else pc0 + 2 * step
  | .nothing => pc0 + step
  | .call _ target => target
  | .ret cont => cont + step

/-- R160: the destination write, the last step of writeback. -/
def rdWrite (out : ExecOut) (rd : Reg) (s : State) : State :=
  match out with
  | .value v => s.setReg rd v
  | .skip v => s.setReg rd v
  | .nothing => s
  | .call link _ => s.setReg rd link
  | .ret _ => s

/-- R158 to R162: window, then pc, then rd, so a destination of selector 2 overrides the pc (R161), and a call's link
lands in the new window. A fatal window condition writes nothing. -/
def writeback (out : ExecOut) (rd : Reg) (s : State) : Result :=
  match windowUpdate out s with
  | .error f => raise f
  | .ok t => .next (rdWrite out rd (t.setPc (nextPc out (pcStepOf s.cfg) s.pc)))

/-! ## The I/O device (45_io.md) -/

/-- R324: an I/O error in the core's own taxonomy. -/
def IoError.fault : IoError → Fault
  | .unknownFunct => .ioFunct
  | .badDescriptor => .ioFunct
  | .memory e => .memory e

/-- The writes of a device through the memory interface (R320), all of them or none (R325). -/
def applyWrites (p : ImageWrites) : List IoWrite → Memory → Except MemError Memory
  | [], m => .ok m
  | w :: ws, m =>
    match m.write p w.width w.addr w.value with
    | .error e => .error e
    | .ok m' => applyWrites p ws m'

/-- R322, R323: the reference device. Funct 0 writes the low byte of s1 to stream s2 and returns 0; the funct is checked
before the stream (R409). -/
def referenceDevice (stdFds : List Word) (c : IoCall) : IoReply :=
  if c.funct = 0 then
    if c.s2 ∈ stdFds then .ok 0 [] [{ stream := c.s2, byte := extract c.s1 0 8 }] else .err .badDescriptor
  else .err .unknownFunct

/-- The operators of a device's terms; sums and differences wrap. -/
def IoOp.eval (op : IoOp) (a b : Word) : Word :=
  match op with
  | .add => a + b
  | .sub => a - b
  | .and => a &&& b
  | .or => a ||| b
  | .xor => a ^^^ b

/-- The value of a device's term, or the memory error its reads meet (R324). -/
def IoTerm.eval (c : IoCall) (m : Memory) : IoTerm → Except MemError Word
  | .const v => .ok v
  | .funct => .ok (zext c.funct)
  | .s1 => .ok c.s1
  | .s2 => .ok c.s2
  | .s3 => .ok c.s3
  | .read w addr =>
    match addr.eval c m with
    | .error e => .error e
    | .ok a => m.read w a
  | .sliceLen addr len =>
    match addr.eval c m, len.eval c m with
    | .error e, _ => .error e
    | .ok _, .error e => .error e
    | .ok a, .ok n =>
      match m.readSlice a n.toNat with
      | .error e => .error e
      | .ok l => .ok (BitVec.ofNat 32 l.length)
  | .bin op x y =>
    match x.eval c m, y.eval c m with
    | .error e, _ => .error e
    | .ok _, .error e => .error e
    | .ok a, .ok b => .ok (op.eval a b)

/-- One more write before those of an answer. -/
def IoReply.addWrite (w : IoWrite) : IoReply → IoReply
  | .ok v ws bs => .ok v (w :: ws) bs
  | .err e => .err e

/-- More emitted bytes before those of an answer. -/
def IoReply.addBytes (l : List IoByte) : IoReply → IoReply
  | .ok v ws bs => .ok v ws (l ++ bs)
  | .err e => .err e

/-- What a device answers to a call, from the memory as it is at the call, with the core's
IMAGE_WRITE_POLICY (R320). A memory error it meets and does not test for
is its answer (R324). -/
def IoProgram.reply (p : ImageWrites) (c : IoCall) (m : Memory) : IoProgram → IoReply
  | .answer t =>
    match t.eval c m with
    | .error e => .err (.memory e)
    | .ok v => .ok v [] []
  | .fail e => .err e
  | .store w addr value rest =>
    match addr.eval c m, value.eval c m with
    | .error e, _ => .err (.memory e)
    | .ok _, .error e => .err (.memory e)
    | .ok a, .ok v => (rest.reply p c m).addWrite { width := w, addr := a, value := v }
  | .emit stream byte rest =>
    match stream.eval c m, byte.eval c m with
    | .error e, _ => .err (.memory e)
    | .ok _, .error e => .err (.memory e)
    | .ok f, .ok b => (rest.reply p c m).addBytes [{ stream := f, byte := extract b 0 8 }]
  | .emitSlice stream addr len rest =>
    match stream.eval c m, addr.eval c m, len.eval c m with
    | .error e, _, _ => .err (.memory e)
    | .ok _, .error e, _ => .err (.memory e)
    | .ok _, .ok _, .error e => .err (.memory e)
    | .ok f, .ok a, .ok n =>
      match m.readSlice a n.toNat with
      | .error e => .err (.memory e)
      | .ok l => (rest.reply p c m).addBytes (l.map (fun b => { stream := f, byte := b }))
  | .ifEq x y yes no =>
    match x.eval c m, y.eval c m with
    | .error e, _ => .err (.memory e)
    | .ok _, .error e => .err (.memory e)
    | .ok a, .ok b => if a = b then yes.reply p c m else no.reply p c m
  | .ifFails x e yes no => if x.eval c m = .error e then yes.reply p c m else no.reply p c m
  | .ifWriteFails w addr e yes no =>
    match addr.eval c m with
    | .error x => .err (.memory x)
    | .ok a => if m.writeError p w a.toNat = some e then yes.reply p c m else no.reply p c m

/-- What the device answers to a call. With none supplied every funct is unknown (R320). -/
def IoDevice.reply (cfg : Config) (c : IoCall) (m : Memory) : IoDevice → IoReply
  | .absent => .err .unknownFunct
  | .reference => referenceDevice cfg.ioStdFds c
  | .supplied [] last => last.reply cfg.imageWrites c m
  | .supplied (p :: _) _ => p.reply cfg.imageWrites c m

/-- The device after a call that succeeds: a supplied one goes on to its next turn (log 10). -/
def IoDevice.afterCall : IoDevice → IoDevice
  | .absent => .absent
  | .reference => .reference
  | .supplied [] last => .supplied [] last
  | .supplied (_ :: turns) last => .supplied turns last

/-- R320: `IO_DEVICE(funct, s1, s2, s3, mem) -> Ok(v, mem') | Err(e)`. The writes of an answer are checked before any of them
lands, and the bytes are emitted only on Ok, so a device that fails changes nothing (R325). -/
def ioDevice (cfg : Config) (c : IoCall) (io : IoPort) (m : Memory) : Except IoError (Word × IoPort × Memory) :=
  match io.device.reply cfg c m with
  | .err e => .error e
  | .ok v ws bs =>
    match applyWrites cfg.imageWrites ws m with
    | .error e => .error (.memory e)
    | .ok m' => .ok (v, { device := io.device.afterCall, output := io.output ++ bs }, m')

/-! ## Fetch (40_cycle.md R151, R152) -/

/-- The word at the pc: a read32 of memory as it stands. -/
def State.fetch (s : State) : Except MemError Word := s.mem.read .word (fetchAddrOf s.cfg s.pc)

/-- The host's placing of one word at a byte address, before a cycle (20_memory.md R59, 70_reset_and_hazards.md R453; log 21):
the image byte or data byte is overwritten, a data block is allocated, a flat region is made long enough. -/
def Memory.place (m : Memory) (a : Nat) (w : Word) : Memory :=
  match m.backend with
  | .flat size => ({ m with backend := .flat (max size (a + 4)) }).putValue .word a w
  | .sparse => (m.allocate a).putValue .word a w
  | .split len => if a < len then m.putValue .word a w else (m.allocate a).putValue .word a w

/-- The pc made one that can be fetched at: with PC_UNIT = BYTE its two low bits cleared, else itself (R151; log 21). -/
def fetchablePcOf (c : Config) (pc : Word) : Word :=
  match c.pcUnit with
  | .word => pc
  | .byte => pc &&& 0xFFFFFFFC

/-- A word placed where the next cycle fetches. -/
def State.placeAtPc (s : State) (w : Word) : State :=
  let pc := fetchablePcOf s.cfg s.pc
  { (s.setPc pc) with mem := s.mem.place (fetchAddrOf s.cfg pc).toNat w }

/-! ## Construction (70_reset_and_hazards.md R450) -/

/-- What a backend is constructed from (R51). -/
inductive BackendArg where
  | flat (size : Nat)
  | sparse
  | split (image : List Byte)
deriving DecidableEq, Repr

/-- The cells of a byte sequence that starts at an address. -/
def imageCells : Nat → List Byte → List Host.Cell
  | _, [] => []
  | a, b :: bs => if b = Memory.unlisted then imageCells (a + 1) bs else (a, b) :: imageCells (a + 1) bs

/-- The memory of a new core (20_memory.md R59, R63, R66): an image length that is no multiple of 4 fails Unaligned. -/
def constructMemory : BackendArg → Except MemError Memory
  | .flat size => .ok { backend := .flat size, cells := [], blocks := [] }
  | .sparse => .ok { backend := .sparse, cells := [], blocks := [] }
  | .split image =>
    if image.length % 4 = 0 then
      .ok { backend := .split image.length, cells := imageCells 0 image, blocks := [] }
    else .error .unaligned

/-- R450: a core constructed from its parameters, its device and its backend. A failure is the host's: no core exists. -/
def construct (cfg : Config) (device : IoDevice) (arg : BackendArg) : Except MemError State :=
  match constructMemory arg with
  | .error e => .error e
  | .ok m =>
    .ok { State.reset with mem := m, io := { device := device, output := [] }, cfg := cfg }

end Sys2Proof.Machine
end

