-- ==== Sys2Proof/Machine/Operands.lean ====
section
/-! DEFINITION. The operand forms every family shares (40_cycle.md R153, R154) and the addressing mode (43_loadstore.md R270).
Operands are read from the state the cycle begins with, before any write (R153, 70_reset_and_hazards.md R461). -/

namespace Sys2Proof.Machine

/-- R154: s2, a register or the decoded immediate. -/
def State.operand2 (s : State) : Src2 → Word
  | .reg r => s.reg r
  | .imm v => v

/-- R270: the effective address s1 + s2, wrapping. -/
def State.effectiveAddress (s : State) (base : Reg) (off : Src2) : Word := s.reg base + s.operand2 off

/-- R205: the shift or rotate amount, the bits of s2 that SHIFT_MASK keeps (D10: bits 4:0; log 6). -/
def shiftAmount (mask b : Word) : Nat := (b &&& mask).toNat

end Sys2Proof.Machine
end

