-- ==== Sys2Proof/Machine/Flags.lean ====
section
/-! DEFINITION. The CORE has no status flags (10_state.md R33): a comparison writes 1 or 0 to a register (41_arith.md R232 to R241),
and a skip is decided from the result within the cycle (R201). Those results are here. -/

namespace Sys2Proof.Machine

/-- "each yields 1 or 0" (R232). -/
def flagWord (c : Bool) : Word := if c then 1 else 0

/-- R232. -/
def aluSeq (a b : Word) : Word := flagWord (decide (a = b))

/-- R233. -/
def aluSne (a b : Word) : Word := flagWord (decide (a ≠ b))

/-- R234. -/
def aluSgtu (a b : Word) : Word := flagWord (decide (a.toNat > b.toNat))

/-- R235. -/
def aluSgt (a b : Word) : Word := flagWord (decide (a.toInt > b.toInt))

/-- R236. -/
def aluSgeu (a b : Word) : Word := flagWord (decide (a.toNat ≥ b.toNat))

/-- R237. -/
def aluSge (a b : Word) : Word := flagWord (decide (a.toInt ≥ b.toInt))

/-- R238. -/
def aluSltu (a b : Word) : Word := flagWord (decide (a.toNat < b.toNat))

/-- R239. -/
def aluSlt (a b : Word) : Word := flagWord (decide (a.toInt < b.toInt))

/-- R240. -/
def aluSleu (a b : Word) : Word := flagWord (decide (a.toNat ≤ b.toNat))

/-- R241. -/
def aluSle (a b : Word) : Word := flagWord (decide (a.toInt ≤ b.toInt))

end Sys2Proof.Machine
end

