-- ==== Sys2Proof/Machine/Alu.lean ====
section
/-! DEFINITION. The functions of the arithmetic unit that are no comparison (41_arith.md R210 to R229), shared by Arith and
ArithSkip, and the two units themselves (R200, R201). Inputs and results are 32 bits; sums and low products wrap (R203). -/

namespace Sys2Proof.Machine

/-- R210. -/
def aluAdd (a b : Word) : Word := a + b

/-- R211: reversed, s2 - s1. -/
def aluSub (a b : Word) : Word := b - a

/-- R212. -/
def aluAnd (a b : Word) : Word := a &&& b

/-- R213. -/
def aluOr (a b : Word) : Word := a ||| b

/-- R214. -/
def aluXor (a b : Word) : Word := a ^^^ b

/-- R215: of s1 alone. -/
def aluNot (a _b : Word) : Word := ~~~a

/-- R216: the low word of the exact unsigned product. -/
def aluMulu (a b : Word) : Word := BitVec.ofNat 32 (a.toNat * b.toNat)

/-- R217: the high word of the exact unsigned product. -/
def aluMulhu (a b : Word) : Word := BitVec.ofNat 32 (a.toNat * b.toNat / 2 ^ 32)

/-- R218: the low word of the exact signed product. -/
def aluMul (a b : Word) : Word := BitVec.ofInt 32 (a.toInt * b.toInt)

/-- R219, D8: the high word of the exact signed product as a 64-bit pattern. -/
def aluMulh (a b : Word) : Word := BitVec.ofInt 32 (a.toInt * b.toInt / 2 ^ 32)

/-- R220: all ones on division by zero. -/
def aluDivu (a b : Word) : Word := if b = 0 then allOnes else BitVec.ofNat 32 (a.toNat / b.toNat)

/-- R221: the dividend on division by zero. -/
def aluRemu (a b : Word) : Word := if b = 0 then a else BitVec.ofNat 32 (a.toNat % b.toNat)

/-- R222, R206, D11: toward zero; -1 on division by zero; the overflow -2^31 / -1 gives -2^31. -/
def aluDiv (a b : Word) : Word :=
  if b = 0 then allOnes
  else if a = intMin ∧ b = allOnes then intMin
  else BitVec.ofInt 32 (a.toInt.tdiv b.toInt)

/-- R223, R206, D11: the sign of the dividend; the dividend on division by zero; the overflow gives 0. -/
def aluRem (a b : Word) : Word :=
  if b = 0 then a
  else if a = intMin ∧ b = allOnes then 0
  else BitVec.ofInt 32 (a.toInt - a.toInt.tdiv b.toInt * b.toInt)

/-- The distance of a shift by an amount: a shift by 32 or more moves every bit out, as a shift by 32 does. -/
def shiftDistance (mask b : Word) : Nat := min (shiftAmount mask b) 32

/-- R224. -/
def aluShl (mask a b : Word) : Word := a <<< shiftDistance mask b

/-- R225: zeros shifted in. -/
def aluShr (mask a b : Word) : Word := a >>> shiftDistance mask b

/-- R226: the same as R224. -/
def aluSal (mask a b : Word) : Word := a <<< shiftDistance mask b

/-- R227: copies of bit 31 shifted in. -/
def aluSar (mask a b : Word) : Word := a.sshiftRight (shiftDistance mask b)

/-- A rotation by 32 places is none, so an amount counts modulo 32 (DEDUCED for a SHIFT_MASK that keeps more than bits 4:0;
log 6). -/
def rotateDistance (mask b : Word) : Nat := shiftAmount mask b % 32

/-- R228. -/
def aluRol (mask a b : Word) : Word :=
  if rotateDistance mask b = 0 then a
  else (a <<< rotateDistance mask b) ||| (a >>> (32 - rotateDistance mask b))

/-- R229. -/
def aluRor (mask a b : Word) : Word :=
  if rotateDistance mask b = 0 then a
  else (a >>> rotateDistance mask b) ||| (a <<< (32 - rotateDistance mask b))

/-- R200: the Arith unit with a function of the ALU. A funct of 32 or more never reaches it: `decode` rejects the word (R202). -/
def arithUnit (f : Word → Word → Word) (rd rs1 : Reg) (src : Src2) (s : State) : Result :=
  writeback (.value (f (s.reg rs1) (s.operand2 src))) rd s

/-- R201: the ArithSkip unit: the value is written and also decides the skip (D14). -/
def arithSkipUnit (f : Word → Word → Word) (rd rs1 : Reg) (src : Src2) (s : State) : Result :=
  writeback (.skip (f (s.reg rs1) (s.operand2 src))) rd s

/-- R230, R231, R408: an unassigned funct is refused; no value is invented and no error reported. -/
def arithRefuse (funct : Nat) : Result := refuse (.arithFunctUnassigned funct)

end Sys2Proof.Machine
end

