-- ==== Sys2Proof/Machine/Arith.lean ====
section
/-! DEFINITION. The Arith instructions (41_arith.md R200, R210 to R241): rd <- f(s1, s2), pc one slot on. -/

namespace Sys2Proof.Machine

/-- ADD (R210). -/
def execAdd (rd rs1 rs2 : Reg) (s : State) : Result := arithUnit aluAdd rd rs1 (.reg rs2) s

/-- ADDI (R210). -/
def execAddI (rd rs1 : Reg) (imm : Word) (s : State) : Result := arithUnit aluAdd rd rs1 (.imm imm) s

/-- SUB (R211). -/
def execSub (rd rs1 rs2 : Reg) (s : State) : Result := arithUnit aluSub rd rs1 (.reg rs2) s

/-- SUBI (R211). -/
def execSubI (rd rs1 : Reg) (imm : Word) (s : State) : Result := arithUnit aluSub rd rs1 (.imm imm) s

/-- AND (R212). -/
def execAnd (rd rs1 rs2 : Reg) (s : State) : Result := arithUnit aluAnd rd rs1 (.reg rs2) s

/-- ANDI (R212). -/
def execAndI (rd rs1 : Reg) (imm : Word) (s : State) : Result := arithUnit aluAnd rd rs1 (.imm imm) s

/-- OR (R213). -/
def execOr (rd rs1 rs2 : Reg) (s : State) : Result := arithUnit aluOr rd rs1 (.reg rs2) s

/-- ORI (R213). -/
def execOrI (rd rs1 : Reg) (imm : Word) (s : State) : Result := arithUnit aluOr rd rs1 (.imm imm) s

/-- XOR (R214). -/
def execXor (rd rs1 rs2 : Reg) (s : State) : Result := arithUnit aluXor rd rs1 (.reg rs2) s

/-- XORI (R214). -/
def execXorI (rd rs1 : Reg) (imm : Word) (s : State) : Result := arithUnit aluXor rd rs1 (.imm imm) s

/-- NOT (R215). -/
def execNot (rd rs1 rs2 : Reg) (s : State) : Result := arithUnit aluNot rd rs1 (.reg rs2) s

/-- NOTI (R215). -/
def execNotI (rd rs1 : Reg) (imm : Word) (s : State) : Result := arithUnit aluNot rd rs1 (.imm imm) s

/-- MULU (R216). -/
def execMulu (rd rs1 rs2 : Reg) (s : State) : Result := arithUnit aluMulu rd rs1 (.reg rs2) s

/-- MULUI (R216). -/
def execMuluI (rd rs1 : Reg) (imm : Word) (s : State) : Result := arithUnit aluMulu rd rs1 (.imm imm) s

/-- MULHU (R217). -/
def execMulhu (rd rs1 rs2 : Reg) (s : State) : Result := arithUnit aluMulhu rd rs1 (.reg rs2) s

/-- MULHUI (R217). -/
def execMulhuI (rd rs1 : Reg) (imm : Word) (s : State) : Result := arithUnit aluMulhu rd rs1 (.imm imm) s

/-- MUL (R218). -/
def execMul (rd rs1 rs2 : Reg) (s : State) : Result := arithUnit aluMul rd rs1 (.reg rs2) s

/-- MULI (R218). -/
def execMulI (rd rs1 : Reg) (imm : Word) (s : State) : Result := arithUnit aluMul rd rs1 (.imm imm) s

/-- MULH (R219). -/
def execMulh (rd rs1 rs2 : Reg) (s : State) : Result := arithUnit aluMulh rd rs1 (.reg rs2) s

/-- MULHI (R219). -/
def execMulhI (rd rs1 : Reg) (imm : Word) (s : State) : Result := arithUnit aluMulh rd rs1 (.imm imm) s

/-- DIVU (R220). -/
def execDivu (rd rs1 rs2 : Reg) (s : State) : Result := arithUnit aluDivu rd rs1 (.reg rs2) s

/-- DIVUI (R220). -/
def execDivuI (rd rs1 : Reg) (imm : Word) (s : State) : Result := arithUnit aluDivu rd rs1 (.imm imm) s

/-- REMU (R221). -/
def execRemu (rd rs1 rs2 : Reg) (s : State) : Result := arithUnit aluRemu rd rs1 (.reg rs2) s

/-- REMUI (R221). -/
def execRemuI (rd rs1 : Reg) (imm : Word) (s : State) : Result := arithUnit aluRemu rd rs1 (.imm imm) s

/-- DIV (R222). -/
def execDiv (rd rs1 rs2 : Reg) (s : State) : Result := arithUnit aluDiv rd rs1 (.reg rs2) s

/-- DIVI (R222). -/
def execDivI (rd rs1 : Reg) (imm : Word) (s : State) : Result := arithUnit aluDiv rd rs1 (.imm imm) s

/-- REM (R223). -/
def execRem (rd rs1 rs2 : Reg) (s : State) : Result := arithUnit aluRem rd rs1 (.reg rs2) s

/-- REMI (R223). -/
def execRemI (rd rs1 : Reg) (imm : Word) (s : State) : Result := arithUnit aluRem rd rs1 (.imm imm) s

/-- SHL (R224). -/
def execShl (rd rs1 rs2 : Reg) (s : State) : Result := arithUnit (aluShl s.cfg.shiftMask) rd rs1 (.reg rs2) s

/-- SHLI (R224). -/
def execShlI (rd rs1 : Reg) (imm : Word) (s : State) : Result := arithUnit (aluShl s.cfg.shiftMask) rd rs1 (.imm imm) s

/-- SHR (R225). -/
def execShr (rd rs1 rs2 : Reg) (s : State) : Result := arithUnit (aluShr s.cfg.shiftMask) rd rs1 (.reg rs2) s

/-- SHRI (R225). -/
def execShrI (rd rs1 : Reg) (imm : Word) (s : State) : Result := arithUnit (aluShr s.cfg.shiftMask) rd rs1 (.imm imm) s

/-- SAL (R226). -/
def execSal (rd rs1 rs2 : Reg) (s : State) : Result := arithUnit (aluSal s.cfg.shiftMask) rd rs1 (.reg rs2) s

/-- SALI (R226). -/
def execSalI (rd rs1 : Reg) (imm : Word) (s : State) : Result := arithUnit (aluSal s.cfg.shiftMask) rd rs1 (.imm imm) s

/-- SAR (R227). -/
def execSar (rd rs1 rs2 : Reg) (s : State) : Result := arithUnit (aluSar s.cfg.shiftMask) rd rs1 (.reg rs2) s

/-- SARI (R227). -/
def execSarI (rd rs1 : Reg) (imm : Word) (s : State) : Result := arithUnit (aluSar s.cfg.shiftMask) rd rs1 (.imm imm) s

/-- ROL (R228). -/
def execRol (rd rs1 rs2 : Reg) (s : State) : Result := arithUnit (aluRol s.cfg.shiftMask) rd rs1 (.reg rs2) s

/-- ROLI (R228). -/
def execRolI (rd rs1 : Reg) (imm : Word) (s : State) : Result := arithUnit (aluRol s.cfg.shiftMask) rd rs1 (.imm imm) s

/-- ROR (R229). -/
def execRor (rd rs1 rs2 : Reg) (s : State) : Result := arithUnit (aluRor s.cfg.shiftMask) rd rs1 (.reg rs2) s

/-- RORI (R229). -/
def execRorI (rd rs1 : Reg) (imm : Word) (s : State) : Result := arithUnit (aluRor s.cfg.shiftMask) rd rs1 (.imm imm) s

/-- ARITH_F20 (R230): refused. -/
def execArithF20 (_rd _rs1 _rs2 : Reg) (_s : State) : Result := arithRefuse 20

/-- ARITH_F20I (R230): refused. -/
def execArithF20I (_rd _rs1 : Reg) (_imm : Wo_rd) (_s : State) : Result := arithRefuse 20

/-- ARITH_F21 (R231): refused. -/
def execArithF21 (_rd _rs1 _rs2 : Reg) (_s : State) : Result := arithRefuse 21

/-- ARITH_F21I (R231): refused. -/
def execArithF21I (_rd _rs1 : Reg) (_imm : Wo_rd) (_s : State) : Result := arithRefuse 21

/-- SEQ (R232). -/
def execSeq (rd rs1 rs2 : Reg) (s : State) : Result := arithUnit aluSeq rd rs1 (.reg rs2) s

/-- SEQI (R232). -/
def execSeqI (rd rs1 : Reg) (imm : Word) (s : State) : Result := arithUnit aluSeq rd rs1 (.imm imm) s

/-- SNE (R233). -/
def execSne (rd rs1 rs2 : Reg) (s : State) : Result := arithUnit aluSne rd rs1 (.reg rs2) s

/-- SNEI (R233). -/
def execSneI (rd rs1 : Reg) (imm : Word) (s : State) : Result := arithUnit aluSne rd rs1 (.imm imm) s

/-- SGTU (R234). -/
def execSgtu (rd rs1 rs2 : Reg) (s : State) : Result := arithUnit aluSgtu rd rs1 (.reg rs2) s

/-- SGTUI (R234). -/
def execSgtuI (rd rs1 : Reg) (imm : Word) (s : State) : Result := arithUnit aluSgtu rd rs1 (.imm imm) s

/-- SGT (R235). -/
def execSgt (rd rs1 rs2 : Reg) (s : State) : Result := arithUnit aluSgt rd rs1 (.reg rs2) s

/-- SGTI (R235). -/
def execSgtI (rd rs1 : Reg) (imm : Word) (s : State) : Result := arithUnit aluSgt rd rs1 (.imm imm) s

/-- SGEU (R236). -/
def execSgeu (rd rs1 rs2 : Reg) (s : State) : Result := arithUnit aluSgeu rd rs1 (.reg rs2) s

/-- SGEUI (R236). -/
def execSgeuI (rd rs1 : Reg) (imm : Word) (s : State) : Result := arithUnit aluSgeu rd rs1 (.imm imm) s

/-- SGE (R237). -/
def execSge (rd rs1 rs2 : Reg) (s : State) : Result := arithUnit aluSge rd rs1 (.reg rs2) s

/-- SGEI (R237). -/
def execSgeI (rd rs1 : Reg) (imm : Word) (s : State) : Result := arithUnit aluSge rd rs1 (.imm imm) s

/-- SLTU (R238). -/
def execSltu (rd rs1 rs2 : Reg) (s : State) : Result := arithUnit aluSltu rd rs1 (.reg rs2) s

/-- SLTUI (R238). -/
def execSltuI (rd rs1 : Reg) (imm : Word) (s : State) : Result := arithUnit aluSltu rd rs1 (.imm imm) s

/-- SLT (R239). -/
def execSlt (rd rs1 rs2 : Reg) (s : State) : Result := arithUnit aluSlt rd rs1 (.reg rs2) s

/-- SLTI (R239). -/
def execSltI (rd rs1 : Reg) (imm : Word) (s : State) : Result := arithUnit aluSlt rd rs1 (.imm imm) s

/-- SLEU (R240). -/
def execSleu (rd rs1 rs2 : Reg) (s : State) : Result := arithUnit aluSleu rd rs1 (.reg rs2) s

/-- SLEUI (R240). -/
def execSleuI (rd rs1 : Reg) (imm : Word) (s : State) : Result := arithUnit aluSleu rd rs1 (.imm imm) s

/-- SLE (R241). -/
def execSle (rd rs1 rs2 : Reg) (s : State) : Result := arithUnit aluSle rd rs1 (.reg rs2) s

/-- SLEI (R241). -/
def execSleI (rd rs1 : Reg) (imm : Word) (s : State) : Result := arithUnit aluSle rd rs1 (.imm imm) s

end Sys2Proof.Machine
end

