-- ==== Sys2Proof/Machine/ArithSkip.lean ====
section
/-! DEFINITION. The ArithSkip instructions (41_arith.md R201, R210 to R241): rd <- f(s1, s2), pc two slots on when the value is not 0. -/

namespace Sys2Proof.Machine

/-- ADD.SK (R210). -/
def execAddSk (rd rs1 rs2 : Reg) (s : State) : Result := arithSkipUnit aluAdd rd rs1 (.reg rs2) s

/-- ADDI.SK (R210). -/
def execAddISk (rd rs1 : Reg) (imm : Word) (s : State) : Result := arithSkipUnit aluAdd rd rs1 (.imm imm) s

/-- SUB.SK (R211). -/
def execSubSk (rd rs1 rs2 : Reg) (s : State) : Result := arithSkipUnit aluSub rd rs1 (.reg rs2) s

/-- SUBI.SK (R211). -/
def execSubISk (rd rs1 : Reg) (imm : Word) (s : State) : Result := arithSkipUnit aluSub rd rs1 (.imm imm) s

/-- AND.SK (R212). -/
def execAndSk (rd rs1 rs2 : Reg) (s : State) : Result := arithSkipUnit aluAnd rd rs1 (.reg rs2) s

/-- ANDI.SK (R212). -/
def execAndISk (rd rs1 : Reg) (imm : Word) (s : State) : Result := arithSkipUnit aluAnd rd rs1 (.imm imm) s

/-- OR.SK (R213). -/
def execOrSk (rd rs1 rs2 : Reg) (s : State) : Result := arithSkipUnit aluOr rd rs1 (.reg rs2) s

/-- ORI.SK (R213). -/
def execOrISk (rd rs1 : Reg) (imm : Word) (s : State) : Result := arithSkipUnit aluOr rd rs1 (.imm imm) s

/-- XOR.SK (R214). -/
def execXorSk (rd rs1 rs2 : Reg) (s : State) : Result := arithSkipUnit aluXor rd rs1 (.reg rs2) s

/-- XORI.SK (R214). -/
def execXorISk (rd rs1 : Reg) (imm : Word) (s : State) : Result := arithSkipUnit aluXor rd rs1 (.imm imm) s

/-- NOT.SK (R215). -/
def execNotSk (rd rs1 rs2 : Reg) (s : State) : Result := arithSkipUnit aluNot rd rs1 (.reg rs2) s

/-- NOTI.SK (R215). -/
def execNotISk (rd rs1 : Reg) (imm : Word) (s : State) : Result := arithSkipUnit aluNot rd rs1 (.imm imm) s

/-- MULU.SK (R216). -/
def execMuluSk (rd rs1 rs2 : Reg) (s : State) : Result := arithSkipUnit aluMulu rd rs1 (.reg rs2) s

/-- MULUI.SK (R216). -/
def execMuluISk (rd rs1 : Reg) (imm : Word) (s : State) : Result := arithSkipUnit aluMulu rd rs1 (.imm imm) s

/-- MULHU.SK (R217). -/
def execMulhuSk (rd rs1 rs2 : Reg) (s : State) : Result := arithSkipUnit aluMulhu rd rs1 (.reg rs2) s

/-- MULHUI.SK (R217). -/
def execMulhuISk (rd rs1 : Reg) (imm : Word) (s : State) : Result := arithSkipUnit aluMulhu rd rs1 (.imm imm) s

/-- MUL.SK (R218). -/
def execMulSk (rd rs1 rs2 : Reg) (s : State) : Result := arithSkipUnit aluMul rd rs1 (.reg rs2) s

/-- MULI.SK (R218). -/
def execMulISk (rd rs1 : Reg) (imm : Word) (s : State) : Result := arithSkipUnit aluMul rd rs1 (.imm imm) s

/-- MULH.SK (R219). -/
def execMulhSk (rd rs1 rs2 : Reg) (s : State) : Result := arithSkipUnit aluMulh rd rs1 (.reg rs2) s

/-- MULHI.SK (R219). -/
def execMulhISk (rd rs1 : Reg) (imm : Word) (s : State) : Result := arithSkipUnit aluMulh rd rs1 (.imm imm) s

/-- DIVU.SK (R220). -/
def execDivuSk (rd rs1 rs2 : Reg) (s : State) : Result := arithSkipUnit aluDivu rd rs1 (.reg rs2) s

/-- DIVUI.SK (R220). -/
def execDivuISk (rd rs1 : Reg) (imm : Word) (s : State) : Result := arithSkipUnit aluDivu rd rs1 (.imm imm) s

/-- REMU.SK (R221). -/
def execRemuSk (rd rs1 rs2 : Reg) (s : State) : Result := arithSkipUnit aluRemu rd rs1 (.reg rs2) s

/-- REMUI.SK (R221). -/
def execRemuISk (rd rs1 : Reg) (imm : Word) (s : State) : Result := arithSkipUnit aluRemu rd rs1 (.imm imm) s

/-- DIV.SK (R222). -/
def execDivSk (rd rs1 rs2 : Reg) (s : State) : Result := arithSkipUnit aluDiv rd rs1 (.reg rs2) s

/-- DIVI.SK (R222). -/
def execDivISk (rd rs1 : Reg) (imm : Word) (s : State) : Result := arithSkipUnit aluDiv rd rs1 (.imm imm) s

/-- REM.SK (R223). -/
def execRemSk (rd rs1 rs2 : Reg) (s : State) : Result := arithSkipUnit aluRem rd rs1 (.reg rs2) s

/-- REMI.SK (R223). -/
def execRemISk (rd rs1 : Reg) (imm : Word) (s : State) : Result := arithSkipUnit aluRem rd rs1 (.imm imm) s

/-- SHL.SK (R224). -/
def execShlSk (rd rs1 rs2 : Reg) (s : State) : Result := arithSkipUnit (aluShl s.cfg.shiftMask) rd rs1 (.reg rs2) s

/-- SHLI.SK (R224). -/
def execShlISk (rd rs1 : Reg) (imm : Word) (s : State) : Result := arithSkipUnit (aluShl s.cfg.shiftMask) rd rs1 (.imm imm) s

/-- SHR.SK (R225). -/
def execShrSk (rd rs1 rs2 : Reg) (s : State) : Result := arithSkipUnit (aluShr s.cfg.shiftMask) rd rs1 (.reg rs2) s

/-- SHRI.SK (R225). -/
def execShrISk (rd rs1 : Reg) (imm : Word) (s : State) : Result := arithSkipUnit (aluShr s.cfg.shiftMask) rd rs1 (.imm imm) s

/-- SAL.SK (R226). -/
def execSalSk (rd rs1 rs2 : Reg) (s : State) : Result := arithSkipUnit (aluSal s.cfg.shiftMask) rd rs1 (.reg rs2) s

/-- SALI.SK (R226). -/
def execSalISk (rd rs1 : Reg) (imm : Word) (s : State) : Result := arithSkipUnit (aluSal s.cfg.shiftMask) rd rs1 (.imm imm) s

/-- SAR.SK (R227). -/
def execSarSk (rd rs1 rs2 : Reg) (s : State) : Result := arithSkipUnit (aluSar s.cfg.shiftMask) rd rs1 (.reg rs2) s

/-- SARI.SK (R227). -/
def execSarISk (rd rs1 : Reg) (imm : Word) (s : State) : Result := arithSkipUnit (aluSar s.cfg.shiftMask) rd rs1 (.imm imm) s

/-- ROL.SK (R228). -/
def execRolSk (rd rs1 rs2 : Reg) (s : State) : Result := arithSkipUnit (aluRol s.cfg.shiftMask) rd rs1 (.reg rs2) s

/-- ROLI.SK (R228). -/
def execRolISk (rd rs1 : Reg) (imm : Word) (s : State) : Result := arithSkipUnit (aluRol s.cfg.shiftMask) rd rs1 (.imm imm) s

/-- ROR.SK (R229). -/
def execRorSk (rd rs1 rs2 : Reg) (s : State) : Result := arithSkipUnit (aluRor s.cfg.shiftMask) rd rs1 (.reg rs2) s

/-- RORI.SK (R229). -/
def execRorISk (rd rs1 : Reg) (imm : Word) (s : State) : Result := arithSkipUnit (aluRor s.cfg.shiftMask) rd rs1 (.imm imm) s

/-- ARITH_F20.SK (R230): refused. -/
def execArithF20Sk (_rd _rs1 _rs2 : Reg) (_s : State) : Result := arithRefuse 20

/-- ARITH_F20I.SK (R230): refused. -/
def execArithF20ISk (_rd _rs1 : Reg) (_imm : Wo_rd) (_s : State) : Result := arithRefuse 20

/-- ARITH_F21.SK (R231): refused. -/
def execArithF21Sk (_rd _rs1 _rs2 : Reg) (_s : State) : Result := arithRefuse 21

/-- ARITH_F21I.SK (R231): refused. -/
def execArithF21ISk (_rd _rs1 : Reg) (_imm : Wo_rd) (_s : State) : Result := arithRefuse 21

/-- SEQ.SK (R232). -/
def execSeqSk (rd rs1 rs2 : Reg) (s : State) : Result := arithSkipUnit aluSeq rd rs1 (.reg rs2) s

/-- SEQI.SK (R232). -/
def execSeqISk (rd rs1 : Reg) (imm : Word) (s : State) : Result := arithSkipUnit aluSeq rd rs1 (.imm imm) s

/-- SNE.SK (R233). -/
def execSneSk (rd rs1 rs2 : Reg) (s : State) : Result := arithSkipUnit aluSne rd rs1 (.reg rs2) s

/-- SNEI.SK (R233). -/
def execSneISk (rd rs1 : Reg) (imm : Word) (s : State) : Result := arithSkipUnit aluSne rd rs1 (.imm imm) s

/-- SGTU.SK (R234). -/
def execSgtuSk (rd rs1 rs2 : Reg) (s : State) : Result := arithSkipUnit aluSgtu rd rs1 (.reg rs2) s

/-- SGTUI.SK (R234). -/
def execSgtuISk (rd rs1 : Reg) (imm : Word) (s : State) : Result := arithSkipUnit aluSgtu rd rs1 (.imm imm) s

/-- SGT.SK (R235). -/
def execSgtSk (rd rs1 rs2 : Reg) (s : State) : Result := arithSkipUnit aluSgt rd rs1 (.reg rs2) s

/-- SGTI.SK (R235). -/
def execSgtISk (rd rs1 : Reg) (imm : Word) (s : State) : Result := arithSkipUnit aluSgt rd rs1 (.imm imm) s

/-- SGEU.SK (R236). -/
def execSgeuSk (rd rs1 rs2 : Reg) (s : State) : Result := arithSkipUnit aluSgeu rd rs1 (.reg rs2) s

/-- SGEUI.SK (R236). -/
def execSgeuISk (rd rs1 : Reg) (imm : Word) (s : State) : Result := arithSkipUnit aluSgeu rd rs1 (.imm imm) s

/-- SGE.SK (R237). -/
def execSgeSk (rd rs1 rs2 : Reg) (s : State) : Result := arithSkipUnit aluSge rd rs1 (.reg rs2) s

/-- SGEI.SK (R237). -/
def execSgeISk (rd rs1 : Reg) (imm : Word) (s : State) : Result := arithSkipUnit aluSge rd rs1 (.imm imm) s

/-- SLTU.SK (R238). -/
def execSltuSk (rd rs1 rs2 : Reg) (s : State) : Result := arithSkipUnit aluSltu rd rs1 (.reg rs2) s

/-- SLTUI.SK (R238). -/
def execSltuISk (rd rs1 : Reg) (imm : Word) (s : State) : Result := arithSkipUnit aluSltu rd rs1 (.imm imm) s

/-- SLT.SK (R239). -/
def execSltSk (rd rs1 rs2 : Reg) (s : State) : Result := arithSkipUnit aluSlt rd rs1 (.reg rs2) s

/-- SLTI.SK (R239). -/
def execSltISk (rd rs1 : Reg) (imm : Word) (s : State) : Result := arithSkipUnit aluSlt rd rs1 (.imm imm) s

/-- SLEU.SK (R240). -/
def execSleuSk (rd rs1 rs2 : Reg) (s : State) : Result := arithSkipUnit aluSleu rd rs1 (.reg rs2) s

/-- SLEUI.SK (R240). -/
def execSleuISk (rd rs1 : Reg) (imm : Word) (s : State) : Result := arithSkipUnit aluSleu rd rs1 (.imm imm) s

/-- SLE.SK (R241). -/
def execSleSk (rd rs1 rs2 : Reg) (s : State) : Result := arithSkipUnit aluSle rd rs1 (.reg rs2) s

/-- SLEI.SK (R241). -/
def execSleISk (rd rs1 : Reg) (imm : Word) (s : State) : Result := arithSkipUnit aluSle rd rs1 (.imm imm) s

end Sys2Proof.Machine
end

