-- ==== Sys2Proof/Machine/Compressed.lean ====
section
/-! DEFINITION. The Compressed opcode (46_compressed.md R340, R341). -/

namespace Sys2Proof.Machine

/-- COMPRESSED (R340): every word of opcode 0 raises CompressedUnsupported. -/
def execCompressed (_s : State) : Result := raise .compressedUnsupported

end Sys2Proof.Machine
end

