-- ==== Sys2Proof/Machine/Func.lean ====
section
/-! DEFINITION. The Func instructions (44_func.md R300 to R305). -/

namespace Sys2Proof.Machine

/-- R301: push a window, go to pc0 + s2, link pc0 into rd of the new window (D16). -/
def callUnit (rd : Reg) (src : Src2) (s : State) : Result :=
  writeback (.call s.pc (s.pc + s.operand2 src)) rd s

/-- CALL (R301, R304): the register displacement is used unchanged. -/
def execCall (rd rs2 : Reg) (s : State) : Result := callUnit rd (.reg rs2) s

/-- CALLI (R301): the F-immediate, which the decoder has made even (30_encoding.md R115). -/
def execCallI (rd : Reg) (imm : Word) (s : State) : Result := callUnit rd (.imm imm) s

/-- RET (R302, D17): pop a window, go to the slot after x[rs1], which is read before the pop; fatal at depth 2 (R406). -/
def execRet (rs1 : Reg) (s : State) : Result := writeback (.ret (s.reg rs1)) 0 s

end Sys2Proof.Machine
end

