-- ==== Sys2Proof/Machine/ImmUpper.lean ====
section
/-! DEFINITION. The ImmUpper instructions (42_immupper.md R250 to R259): rd <- f(x[rd], U-immediate), pc one slot on. -/

namespace Sys2Proof.Machine

/-- R250: the unit; s1 is the old value of rd (30_encoding.md R107). -/
def immUpperUnit (f : Word → Word → Word) (rd : Reg) (imm : Word) (s : State) : Result :=
  writeback (.value (f (s.reg rd) imm)) rd s

/-- R252. -/
def immuAdd (a b : Word) : Word := a + b

/-- R253: s1 - s2, the opposite order from the arithmetic unit. -/
def immuSub (a b : Word) : Word := a - b

/-- R254. -/
def immuAnd (a b : Word) : Word := a &&& b

/-- R255. -/
def immuOr (a b : Word) : Word := a ||| b

/-- R256. -/
def immuXor (a b : Word) : Word := a ^^^ b

/-- R257: the low 13 bits of s1, the bits of s2 above bit 12. -/
def immuMerge (a b : Word) : Word := (a &&& 0x00001FFF) ||| (b &&& 0xFFFFE000)

/-- UADD (R252). -/
def execUadd (rd : Reg) (imm : Word) (s : State) : Result := immUpperUnit immuAdd rd imm s

/-- USUB (R253). -/
def execUsub (rd : Reg) (imm : Word) (s : State) : Result := immUpperUnit immuSub rd imm s

/-- UAND (R254). -/
def execUand (rd : Reg) (imm : Word) (s : State) : Result := immUpperUnit immuAnd rd imm s

/-- UOR (R255). -/
def execUor (rd : Reg) (imm : Word) (s : State) : Result := immUpperUnit immuOr rd imm s

/-- UXOR (R256). -/
def execUxor (rd : Reg) (imm : Word) (s : State) : Result := immUpperUnit immuXor rd imm s

/-- UMERGE (R257). -/
def execUmerge (rd : Reg) (imm : Word) (s : State) : Result := immUpperUnit immuMerge rd imm s

/-- IMMUPPER_F6 (R258): refused. -/
def execImmUpperF6 (_rd : Reg) (_imm : Word) (_s : State) : Result := refuse (.immUpperFunctUnassigned 6)

/-- IMMUPPER_F7 (R259): refused. -/
def execImmUpperF7 (_rd : Reg) (_imm : Word) (_s : State) : Result := refuse (.immUpperFunctUnassigned 7)

/-- IMMUPPER_BADFUNCT (R251): functs 8 to 15 raise ImmUpperFunct. -/
def execImmUpperBadFunct (_funct : BitVec 4) (_rd : Reg) (_imm : Word) (_s : State) : Result := raise .immUpperFunct

end Sys2Proof.Machine
end

