-- ==== Sys2Proof/Machine/Io.lean ====
section
/-! DEFINITION. The Io instructions (45_io.md R320 to R325). -/

namespace Sys2Proof.Machine

/-- R321: the device is called with the funct and the three operands; its result goes to rd, its error is translated (R324). -/
def ioUnit (funct : BitVec 8) (rd rs1 : Reg) (src : Src2) (rs3 : Reg) (s : State) : Result :=
  match ioDevice s.cfg { funct := funct, s1 := s.reg rs1, s2 := s.operand2 src, s3 := s.reg rs3 } s.io s.mem with
  | .error e => raise e.fault
  | .ok (v, io, mem) => writeback (.value v) rd { s with io := io, mem := mem }

/-- IO, funct 0 (R321, R322). -/
def execIo (rd rs1 rs2 rs3 : Reg) (s : State) : Result := ioUnit 0 rd rs1 (.reg rs2) rs3 s

/-- IOI, funct 0 (R321, R322). -/
def execIoI (rd rs1 : Reg) (imm : Word) (rs3 : Reg) (s : State) : Result := ioUnit 0 rd rs1 (.imm imm) rs3 s

/-- IO_OTHER (R321): the device decides; the reference device knows no funct but 0 (R322). -/
def execIoOther (funct : BitVec 8) (rd rs1 : Reg) (src : Src2) (rs3 : Reg) (s : State) : Result :=
  ioUnit funct rd rs1 src rs3 s

end Sys2Proof.Machine
end

