-- ==== Sys2Proof/Machine/LoadStore.lean ====
section
/-! DEFINITION. The Load and Store instructions (43_loadstore.md R270 to R285). An unknown funct never reaches them: `decode`
rejects the word before any access (R277, R284). -/

namespace Sys2Proof.Machine

/-- R271: a load of a width, extended to 32 bits; a memory error keeps its kind. -/
def loadUnit (w : Width) (ext : Word → Word) (rd rs1 : Reg) (src : Src2) (s : State) : Result :=
  match s.mem.read w (s.effectiveAddress rs1 src) with
  | .error e => raise (.memory e)
  | .ok v => writeback (.value (ext v)) rd s

/-- R280: a store of the low bytes of x[rs3]; no register is written. -/
def storeUnit (w : Width) (rs3 rs1 : Reg) (src : Src2) (s : State) : Result :=
  match s.mem.write s.cfg.imageWrites w (s.effectiveAddress rs1 src) (s.reg rs3) with
  | .error e => raise (.memory e)
  | .ok m => writeback .nothing 0 { s with mem := m }

/-- The value read, as it is (a word, or zero-extended, R52). -/
def extendZero (v : Word) : Word := v

/-- R274: bit 15 copied upward. -/
def extendHalf (v : Word) : Word := sext (extract v 0 16)

/-- R276: bit 7 copied upward. -/
def extendByte (v : Word) : Word := sext (extract v 0 8)

/-- LW (R272). -/
def execLw (rd rs1 rs2 : Reg) (s : State) : Result := loadUnit .word extendZero rd rs1 (.reg rs2) s

/-- LWI (R272). -/
def execLwI (rd rs1 : Reg) (imm : Word) (s : State) : Result := loadUnit .word extendZero rd rs1 (.imm imm) s

/-- LHU (R273). -/
def execLhu (rd rs1 rs2 : Reg) (s : State) : Result := loadUnit .half extendZero rd rs1 (.reg rs2) s

/-- LHUI (R273). -/
def execLhuI (rd rs1 : Reg) (imm : Word) (s : State) : Result := loadUnit .half extendZero rd rs1 (.imm imm) s

/-- LH (R274). -/
def execLh (rd rs1 rs2 : Reg) (s : State) : Result := loadUnit .half extendHalf rd rs1 (.reg rs2) s

/-- LHI (R274). -/
def execLhI (rd rs1 : Reg) (imm : Word) (s : State) : Result := loadUnit .half extendHalf rd rs1 (.imm imm) s

/-- LBU (R275). -/
def execLbu (rd rs1 rs2 : Reg) (s : State) : Result := loadUnit .byte extendZero rd rs1 (.reg rs2) s

/-- LBUI (R275). -/
def execLbuI (rd rs1 : Reg) (imm : Word) (s : State) : Result := loadUnit .byte extendZero rd rs1 (.imm imm) s

/-- LB (R276). -/
def execLb (rd rs1 rs2 : Reg) (s : State) : Result := loadUnit .byte extendByte rd rs1 (.reg rs2) s

/-- LBI (R276). -/
def execLbI (rd rs1 : Reg) (imm : Word) (s : State) : Result := loadUnit .byte extendByte rd rs1 (.imm imm) s

/-- SW (R281). -/
def execSw (rs3 rs1 rs2 : Reg) (s : State) : Result := storeUnit .word rs3 rs1 (.reg rs2) s

/-- SWI (R281). -/
def execSwI (rs3 rs1 : Reg) (imm : Word) (s : State) : Result := storeUnit .word rs3 rs1 (.imm imm) s

/-- SH (R282). -/
def execSh (rs3 rs1 rs2 : Reg) (s : State) : Result := storeUnit .half rs3 rs1 (.reg rs2) s

/-- SHI (R282). -/
def execShI (rs3 rs1 : Reg) (imm : Word) (s : State) : Result := storeUnit .half rs3 rs1 (.imm imm) s

/-- SB (R283). -/
def execSb (rs3 rs1 rs2 : Reg) (s : State) : Result := storeUnit .byte rs3 rs1 (.reg rs2) s

/-- SBI (R283). -/
def execSbI (rs3 rs1 : Reg) (imm : Word) (s : State) : Result := storeUnit .byte rs3 rs1 (.imm imm) s

end Sys2Proof.Machine
end

