-- ==== Sys2Proof/Machine/Dispatch.lean ====
section
/-! DEFINITION. Dispatch (40_cycle.md R155): one arm per instruction. -/

namespace Sys2Proof.Machine

def exec (i : Instr) (s : State) : Host.Outcome State Fault Refusal :=
  match i with
  | .add rd rs1 rs2 => Sys2Proof.Machine.execAdd rd rs1 rs2 s
  | .addI rd rs1 imm => Sys2Proof.Machine.execAddI rd rs1 imm s
  | .sub rd rs1 rs2 => Sys2Proof.Machine.execSub rd rs1 rs2 s
  | .subI rd rs1 imm => Sys2Proof.Machine.execSubI rd rs1 imm s
  | .and rd rs1 rs2 => Sys2Proof.Machine.execAnd rd rs1 rs2 s
  | .andI rd rs1 imm => Sys2Proof.Machine.execAndI rd rs1 imm s
  | .or rd rs1 rs2 => Sys2Proof.Machine.execOr rd rs1 rs2 s
  | .orI rd rs1 imm => Sys2Proof.Machine.execOrI rd rs1 imm s
  | .xor rd rs1 rs2 => Sys2Proof.Machine.execXor rd rs1 rs2 s
  | .xorI rd rs1 imm => Sys2Proof.Machine.execXorI rd rs1 imm s
  | .not rd rs1 rs2 => Sys2Proof.Machine.execNot rd rs1 rs2 s
  | .notI rd rs1 imm => Sys2Proof.Machine.execNotI rd rs1 imm s
  | .mulu rd rs1 rs2 => Sys2Proof.Machine.execMulu rd rs1 rs2 s
  | .muluI rd rs1 imm => Sys2Proof.Machine.execMuluI rd rs1 imm s
  | .mulhu rd rs1 rs2 => Sys2Proof.Machine.execMulhu rd rs1 rs2 s
  | .mulhuI rd rs1 imm => Sys2Proof.Machine.execMulhuI rd rs1 imm s
  | .mul rd rs1 rs2 => Sys2Proof.Machine.execMul rd rs1 rs2 s
  | .mulI rd rs1 imm => Sys2Proof.Machine.execMulI rd rs1 imm s
  | .mulh rd rs1 rs2 => Sys2Proof.Machine.execMulh rd rs1 rs2 s
  | .mulhI rd rs1 imm => Sys2Proof.Machine.execMulhI rd rs1 imm s
  | .divu rd rs1 rs2 => Sys2Proof.Machine.execDivu rd rs1 rs2 s
  | .divuI rd rs1 imm => Sys2Proof.Machine.execDivuI rd rs1 imm s
  | .remu rd rs1 rs2 => Sys2Proof.Machine.execRemu rd rs1 rs2 s
  | .remuI rd rs1 imm => Sys2Proof.Machine.execRemuI rd rs1 imm s
  | .div rd rs1 rs2 => Sys2Proof.Machine.execDiv rd rs1 rs2 s
  | .divI rd rs1 imm => Sys2Proof.Machine.execDivI rd rs1 imm s
  | .rem rd rs1 rs2 => Sys2Proof.Machine.execRem rd rs1 rs2 s
  | .remI rd rs1 imm => Sys2Proof.Machine.execRemI rd rs1 imm s
  | .shl rd rs1 rs2 => Sys2Proof.Machine.execShl rd rs1 rs2 s
  | .shlI rd rs1 imm => Sys2Proof.Machine.execShlI rd rs1 imm s
  | .shr rd rs1 rs2 => Sys2Proof.Machine.execShr rd rs1 rs2 s
  | .shrI rd rs1 imm => Sys2Proof.Machine.execShrI rd rs1 imm s
  | .sal rd rs1 rs2 => Sys2Proof.Machine.execSal rd rs1 rs2 s
  | .salI rd rs1 imm => Sys2Proof.Machine.execSalI rd rs1 imm s
  | .sar rd rs1 rs2 => Sys2Proof.Machine.execSar rd rs1 rs2 s
  | .sarI rd rs1 imm => Sys2Proof.Machine.execSarI rd rs1 imm s
  | .rol rd rs1 rs2 => Sys2Proof.Machine.execRol rd rs1 rs2 s
  | .rolI rd rs1 imm => Sys2Proof.Machine.execRolI rd rs1 imm s
  | .ror rd rs1 rs2 => Sys2Proof.Machine.execRor rd rs1 rs2 s
  | .rorI rd rs1 imm => Sys2Proof.Machine.execRorI rd rs1 imm s
  | .arithF20 rd rs1 rs2 => Sys2Proof.Machine.execArithF20 rd rs1 rs2 s
  | .arithF20I rd rs1 imm => Sys2Proof.Machine.execArithF20I rd rs1 imm s
  | .arithF21 rd rs1 rs2 => Sys2Proof.Machine.execArithF21 rd rs1 rs2 s
  | .arithF21I rd rs1 imm => Sys2Proof.Machine.execArithF21I rd rs1 imm s
  | .seq rd rs1 rs2 => Sys2Proof.Machine.execSeq rd rs1 rs2 s
  | .seqI rd rs1 imm => Sys2Proof.Machine.execSeqI rd rs1 imm s
  | .sne rd rs1 rs2 => Sys2Proof.Machine.execSne rd rs1 rs2 s
  | .sneI rd rs1 imm => Sys2Proof.Machine.execSneI rd rs1 imm s
  | .sgtu rd rs1 rs2 => Sys2Proof.Machine.execSgtu rd rs1 rs2 s
  | .sgtuI rd rs1 imm => Sys2Proof.Machine.execSgtuI rd rs1 imm s
  | .sgt rd rs1 rs2 => Sys2Proof.Machine.execSgt rd rs1 rs2 s
  | .sgtI rd rs1 imm => Sys2Proof.Machine.execSgtI rd rs1 imm s
  | .sgeu rd rs1 rs2 => Sys2Proof.Machine.execSgeu rd rs1 rs2 s
  | .sgeuI rd rs1 imm => Sys2Proof.Machine.execSgeuI rd rs1 imm s
  | .sge rd rs1 rs2 => Sys2Proof.Machine.execSge rd rs1 rs2 s
  | .sgeI rd rs1 imm => Sys2Proof.Machine.execSgeI rd rs1 imm s
  | .sltu rd rs1 rs2 => Sys2Proof.Machine.execSltu rd rs1 rs2 s
  | .sltuI rd rs1 imm => Sys2Proof.Machine.execSltuI rd rs1 imm s
  | .slt rd rs1 rs2 => Sys2Proof.Machine.execSlt rd rs1 rs2 s
  | .sltI rd rs1 imm => Sys2Proof.Machine.execSltI rd rs1 imm s
  | .sleu rd rs1 rs2 => Sys2Proof.Machine.execSleu rd rs1 rs2 s
  | .sleuI rd rs1 imm => Sys2Proof.Machine.execSleuI rd rs1 imm s
  | .sle rd rs1 rs2 => Sys2Proof.Machine.execSle rd rs1 rs2 s
  | .sleI rd rs1 imm => Sys2Proof.Machine.execSleI rd rs1 imm s
  | .addSk rd rs1 rs2 => Sys2Proof.Machine.execAddSk rd rs1 rs2 s
  | .addISk rd rs1 imm => Sys2Proof.Machine.execAddISk rd rs1 imm s
  | .subSk rd rs1 rs2 => Sys2Proof.Machine.execSubSk rd rs1 rs2 s
  | .subISk rd rs1 imm => Sys2Proof.Machine.execSubISk rd rs1 imm s
  | .andSk rd rs1 rs2 => Sys2Proof.Machine.execAndSk rd rs1 rs2 s
  | .andISk rd rs1 imm => Sys2Proof.Machine.execAndISk rd rs1 imm s
  | .orSk rd rs1 rs2 => Sys2Proof.Machine.execOrSk rd rs1 rs2 s
  | .orISk rd rs1 imm => Sys2Proof.Machine.execOrISk rd rs1 imm s
  | .xorSk rd rs1 rs2 => Sys2Proof.Machine.execXorSk rd rs1 rs2 s
  | .xorISk rd rs1 imm => Sys2Proof.Machine.execXorISk rd rs1 imm s
  | .notSk rd rs1 rs2 => Sys2Proof.Machine.execNotSk rd rs1 rs2 s
  | .notISk rd rs1 imm => Sys2Proof.Machine.execNotISk rd rs1 imm s
  | .muluSk rd rs1 rs2 => Sys2Proof.Machine.execMuluSk rd rs1 rs2 s
  | .muluISk rd rs1 imm => Sys2Proof.Machine.execMuluISk rd rs1 imm s
  | .mulhuSk rd rs1 rs2 => Sys2Proof.Machine.execMulhuSk rd rs1 rs2 s
  | .mulhuISk rd rs1 imm => Sys2Proof.Machine.execMulhuISk rd rs1 imm s
  | .mulSk rd rs1 rs2 => Sys2Proof.Machine.execMulSk rd rs1 rs2 s
  | .mulISk rd rs1 imm => Sys2Proof.Machine.execMulISk rd rs1 imm s
  | .mulhSk rd rs1 rs2 => Sys2Proof.Machine.execMulhSk rd rs1 rs2 s
  | .mulhISk rd rs1 imm => Sys2Proof.Machine.execMulhISk rd rs1 imm s
  | .divuSk rd rs1 rs2 => Sys2Proof.Machine.execDivuSk rd rs1 rs2 s
  | .divuISk rd rs1 imm => Sys2Proof.Machine.execDivuISk rd rs1 imm s
  | .remuSk rd rs1 rs2 => Sys2Proof.Machine.execRemuSk rd rs1 rs2 s
  | .remuISk rd rs1 imm => Sys2Proof.Machine.execRemuISk rd rs1 imm s
  | .divSk rd rs1 rs2 => Sys2Proof.Machine.execDivSk rd rs1 rs2 s
  | .divISk rd rs1 imm => Sys2Proof.Machine.execDivISk rd rs1 imm s
  | .remSk rd rs1 rs2 => Sys2Proof.Machine.execRemSk rd rs1 rs2 s
  | .remISk rd rs1 imm => Sys2Proof.Machine.execRemISk rd rs1 imm s
  | .shlSk rd rs1 rs2 => Sys2Proof.Machine.execShlSk rd rs1 rs2 s
  | .shlISk rd rs1 imm => Sys2Proof.Machine.execShlISk rd rs1 imm s
  | .shrSk rd rs1 rs2 => Sys2Proof.Machine.execShrSk rd rs1 rs2 s
  | .shrISk rd rs1 imm => Sys2Proof.Machine.execShrISk rd rs1 imm s
  | .salSk rd rs1 rs2 => Sys2Proof.Machine.execSalSk rd rs1 rs2 s
  | .salISk rd rs1 imm => Sys2Proof.Machine.execSalISk rd rs1 imm s
  | .sarSk rd rs1 rs2 => Sys2Proof.Machine.execSarSk rd rs1 rs2 s
  | .sarISk rd rs1 imm => Sys2Proof.Machine.execSarISk rd rs1 imm s
  | .rolSk rd rs1 rs2 => Sys2Proof.Machine.execRolSk rd rs1 rs2 s
  | .rolISk rd rs1 imm => Sys2Proof.Machine.execRolISk rd rs1 imm s
  | .rorSk rd rs1 rs2 => Sys2Proof.Machine.execRorSk rd rs1 rs2 s
  | .rorISk rd rs1 imm => Sys2Proof.Machine.execRorISk rd rs1 imm s
  | .arithF20Sk rd rs1 rs2 => Sys2Proof.Machine.execArithF20Sk rd rs1 rs2 s
  | .arithF20ISk rd rs1 imm => Sys2Proof.Machine.execArithF20ISk rd rs1 imm s
  | .arithF21Sk rd rs1 rs2 => Sys2Proof.Machine.execArithF21Sk rd rs1 rs2 s
  | .arithF21ISk rd rs1 imm => Sys2Proof.Machine.execArithF21ISk rd rs1 imm s
  | .seqSk rd rs1 rs2 => Sys2Proof.Machine.execSeqSk rd rs1 rs2 s
  | .seqISk rd rs1 imm => Sys2Proof.Machine.execSeqISk rd rs1 imm s
  | .sneSk rd rs1 rs2 => Sys2Proof.Machine.execSneSk rd rs1 rs2 s
  | .sneISk rd rs1 imm => Sys2Proof.Machine.execSneISk rd rs1 imm s
  | .sgtuSk rd rs1 rs2 => Sys2Proof.Machine.execSgtuSk rd rs1 rs2 s
  | .sgtuISk rd rs1 imm => Sys2Proof.Machine.execSgtuISk rd rs1 imm s
  | .sgtSk rd rs1 rs2 => Sys2Proof.Machine.execSgtSk rd rs1 rs2 s
  | .sgtISk rd rs1 imm => Sys2Proof.Machine.execSgtISk rd rs1 imm s
  | .sgeuSk rd rs1 rs2 => Sys2Proof.Machine.execSgeuSk rd rs1 rs2 s
  | .sgeuISk rd rs1 imm => Sys2Proof.Machine.execSgeuISk rd rs1 imm s
  | .sgeSk rd rs1 rs2 => Sys2Proof.Machine.execSgeSk rd rs1 rs2 s
  | .sgeISk rd rs1 imm => Sys2Proof.Machine.execSgeISk rd rs1 imm s
  | .sltuSk rd rs1 rs2 => Sys2Proof.Machine.execSltuSk rd rs1 rs2 s
  | .sltuISk rd rs1 imm => Sys2Proof.Machine.execSltuISk rd rs1 imm s
  | .sltSk rd rs1 rs2 => Sys2Proof.Machine.execSltSk rd rs1 rs2 s
  | .sltISk rd rs1 imm => Sys2Proof.Machine.execSltISk rd rs1 imm s
  | .sleuSk rd rs1 rs2 => Sys2Proof.Machine.execSleuSk rd rs1 rs2 s
  | .sleuISk rd rs1 imm => Sys2Proof.Machine.execSleuISk rd rs1 imm s
  | .sleSk rd rs1 rs2 => Sys2Proof.Machine.execSleSk rd rs1 rs2 s
  | .sleISk rd rs1 imm => Sys2Proof.Machine.execSleISk rd rs1 imm s
  | .uadd rd imm => Sys2Proof.Machine.execUadd rd imm s
  | .usub rd imm => Sys2Proof.Machine.execUsub rd imm s
  | .uand rd imm => Sys2Proof.Machine.execUand rd imm s
  | .uor rd imm => Sys2Proof.Machine.execUor rd imm s
  | .uxor rd imm => Sys2Proof.Machine.execUxor rd imm s
  | .umerge rd imm => Sys2Proof.Machine.execUmerge rd imm s
  | .immUpperF6 rd imm => Sys2Proof.Machine.execImmUpperF6 rd imm s
  | .immUpperF7 rd imm => Sys2Proof.Machine.execImmUpperF7 rd imm s
  | .immUpperBadFunct funct rd imm => Sys2Proof.Machine.execImmUpperBadFunct funct rd imm s
  | .lw rd rs1 rs2 => Sys2Proof.Machine.execLw rd rs1 rs2 s
  | .lwI rd rs1 imm => Sys2Proof.Machine.execLwI rd rs1 imm s
  | .lhu rd rs1 rs2 => Sys2Proof.Machine.execLhu rd rs1 rs2 s
  | .lhuI rd rs1 imm => Sys2Proof.Machine.execLhuI rd rs1 imm s
  | .lh rd rs1 rs2 => Sys2Proof.Machine.execLh rd rs1 rs2 s
  | .lhI rd rs1 imm => Sys2Proof.Machine.execLhI rd rs1 imm s
  | .lbu rd rs1 rs2 => Sys2Proof.Machine.execLbu rd rs1 rs2 s
  | .lbuI rd rs1 imm => Sys2Proof.Machine.execLbuI rd rs1 imm s
  | .lb rd rs1 rs2 => Sys2Proof.Machine.execLb rd rs1 rs2 s
  | .lbI rd rs1 imm => Sys2Proof.Machine.execLbI rd rs1 imm s
  | .sw rs3 rs1 rs2 => Sys2Proof.Machine.execSw rs3 rs1 rs2 s
  | .swI rs3 rs1 imm => Sys2Proof.Machine.execSwI rs3 rs1 imm s
  | .sh rs3 rs1 rs2 => Sys2Proof.Machine.execSh rs3 rs1 rs2 s
  | .shI rs3 rs1 imm => Sys2Proof.Machine.execShI rs3 rs1 imm s
  | .sb rs3 rs1 rs2 => Sys2Proof.Machine.execSb rs3 rs1 rs2 s
  | .sbI rs3 rs1 imm => Sys2Proof.Machine.execSbI rs3 rs1 imm s
  | .call rd rs2 => Sys2Proof.Machine.execCall rd rs2 s
  | .callI rd imm => Sys2Proof.Machine.execCallI rd imm s
  | .ret rs1 => Sys2Proof.Machine.execRet rs1 s
  | .io rd rs1 rs2 rs3 => Sys2Proof.Machine.execIo rd rs1 rs2 rs3 s
  | .ioI rd rs1 imm rs3 => Sys2Proof.Machine.execIoI rd rs1 imm rs3 s
  | .ioOther funct rd rs1 src rs3 => Sys2Proof.Machine.execIoOther funct rd rs1 src rs3 s
  | .compressed => Sys2Proof.Machine.execCompressed s

end Sys2Proof.Machine
end

