-- ==== Sys2Proof/Machine/Step.lean ====
section
/-! DEFINITION. One cycle (40_cycle.md R150): fetch, decode, execute. -/

namespace Sys2Proof.Machine

/-- R150, R409: a fetch error ends the cycle (R152), then a funct its unit rejects (R128), then the unit's own outcome. -/
def step (s : State) : Host.Outcome State Fault Refusal :=
  match s.fetch with
  | .error e => raise (.memory e)
  | .ok w =>
    match decodeWith s.cfg w with
    | .error r => raise (rejectFault r)
    | .ok i => exec i s

/-- The instruction in the low nbits bits of w, placed where the next cycle fetches (log 1, log 21). -/
def State.withFetchWord (s : State) (nbits w : Nat) : State :=
  s.placeAtPc (BitVec.ofNat 32 (w % 2 ^ nbits))

end Sys2Proof.Machine
end

