-- ==== Sys2Proof/Safety.lean ====
section
/-! DEFINITION. The words in which claims about the machine are stated: the invariant, how a run ends (40_cycle.md R164), when an
access is allowed, and the whole effect of a cycle on a state. They are written from the spec's rules over what a state reads
as (a selector, a byte, a slot), not over the machine's update functions. -/

namespace Sys2Proof.Machine

/-! ## The invariant -/

/-- What every step keeps: the memory in its canonical form, and the depth of a bounded window stack within its bound
(construction pushes two frames whatever the bound, 10_state.md R32, R37). -/
def State.Inv (s : State) : Prop :=
  s.mem.wf ∧ ∀ n, s.cfg.windowDepthMax = some n → s.regs.depth ≤ max n 2

/-! ## How a run ends (40_cycle.md R164) -/

/-- The three kinds of end: a core error or a fatal condition, or a refusal. -/
inductive Stop where
  | fault (f : Fault)
  | refusal (r : Refusal)
deriving DecidableEq, Repr

/-- What a run has come to: the completed cycles, the state, and why it ended, if it did. -/
structure Run where
  cycles : Nat
  state : State
  stop : Option Stop
deriving DecidableEq, Repr

/-- At most n cycles. A run ends with the first cycle that does not complete, in the state before that cycle (R164). -/
def runFor : Nat → State → Run
  | 0, s => { cycles := 0, state := s, stop := none }
  | n + 1, s =>
    match step s with
    | .next t =>
      let r := runFor n t
      { r with cycles := r.cycles + 1 }
    | .fault f => { cycles := 0, state := s, stop := some (.fault f) }
    | .refused r => { cycles := 0, state := s, stop := some (.refusal r) }

/-! ## Units of the program counter -/

/-- PC_STEP (00_scope.md R5): 1 when the pc counts instructions, 4 when it counts bytes. -/
def slotSize (c : Config) : Word :=
  match c.pcUnit with
  | .word => 1
  | .byte => 4

/-- The byte address of the instruction at a pc (40_cycle.md R151). -/
def codeAddress (c : Config) (pc : Word) : Nat :=
  match c.pcUnit with
  | .word => pc.toNat * 4 % 2 ^ 32
  | .byte => pc.toNat

/-! ## Fields of an instruction word, as numbers (30_encoding.md R102) -/

/-- The n-bit field of a word at offset o (00_scope.md R7). -/
def fieldNat (w : Word) (o n : Nat) : Nat := w.toNat / 2 ^ o % 2 ^ n

/-! ## When an access is allowed (20_memory.md R55 to R68) -/

/-- The little-endian sum of n bytes from an address on (R53). -/
def leSum (m : Memory) : Nat → Nat → Nat
  | _, 0 => 0
  | a, n + 1 => (m.byteAt a).toNat + 256 * leSum m (a + 1) n

/-- The backends that have blocks: all but the flat one. -/
def Memory.Blocked (m : Memory) : Prop := ∀ size, m.backend ≠ .flat size

/-- Where the bytes of an aligned read are held: flat range (R57), allocated block (R62), image or allocated block (R67). -/
def ReadRange (m : Memory) (w : Width) (a : Nat) : Prop :=
  match m.backend with
  | .flat size => a + w.bytes ≤ size
  | .sparse => a / 4096 ∈ m.blocks
  | .split len => a < len ∨ a / 4096 ∈ m.blocks

/-- Where an aligned write stores: flat range (R60), anywhere (R64), at or above the image length (R68). -/
def WriteRange (m : Memory) (w : Width) (a : Nat) : Prop :=
  match m.backend with
  | .flat size => a + w.bytes ≤ size
  | .sparse => True
  | .split len => len ≤ a

/-- Where an aligned write is ignored: below the image length, under that policy (R68, IMAGE_WRITE_POLICY; log 7). -/
def ImageIgnores (p : ImageWrites) (m : Memory) (a : Nat) : Prop :=
  p = .ignore ∧ ∃ len, m.backend = .split len ∧ a < len

/-- A read that succeeds: natural alignment (R55) and a held range. -/
def ReadableAt (m : Memory) (w : Width) (a : Nat) : Prop := a % w.bytes = 0 ∧ ReadRange m w a

/-- A write that stores: natural alignment (R55) and an allowed range. -/
def WritableAt (m : Memory) (w : Width) (a : Nat) : Prop := a % w.bytes = 0 ∧ WriteRange m w a

/-- The error of an aligned read outside what the backend holds (R57, R62, R67). -/
def readRangeError (m : Memory) : MemError :=
  match m.backend with
  | .flat _ => .outOfBounds
  | .sparse => .uninit
  | .split _ => .uninit

/-! ## The whole effect of a cycle -/

/-- The registers of t are those of s after a cycle that writes v to rd and otherwise goes to pc' (40_cycle.md R159 to R161):
selector 0 still reads zero (10_state.md R26), a destination of selector 2 replaces the pc, and every other selector, the top
frame's local slots, every frame below the second, and the parameters are as they were. -/
structure WritesBack (rd : Reg) (v pc' : Word) (s t : State) : Prop where
  dest : t.reg rd = if rd = 0 then 0 else v
  pcNext : rd ≠ 2 → t.pc = pc'
  others : ∀ r : Reg, r ≠ rd → r ≠ 2 → t.reg r = s.reg r
  topLocals : t.regs.top.locals = s.regs.top.locals
  below : t.regs.below = s.regs.below
  zeroSlot : rd ≠ 0 → t.regs.globals[0] = s.regs.globals[0]
  cfg : t.cfg = s.cfg

/-- Nothing but the pc is written (the outcomes `None` and `Return`, R160). -/
def OnlyPc (pc' : Word) (s t : State) : Prop := WritesBack 2 pc' pc' s t

/-- i completes on s: it writes to rd a value that P says everything about, goes to the pc that follows from it, and changes no
byte of memory, no block and nothing of the I/O port. -/
def CompletesWith (i : Instr) (rd : Reg) (P : Word → Prop) (pcOf : Word → Word) (s : State) : Prop :=
  ∃ v t, exec i s = .next t ∧ P v ∧ WritesBack rd v (pcOf v) s t ∧ t.mem = s.mem ∧ t.io = s.io

/-- The pc of the next instruction, and the pc after a possible skip (R159). -/
def nextSlot (s : State) : Word → Word := fun _ => s.pc + slotSize s.cfg
def skipSlot (s : State) : Word → Word :=
  fun v => if v = 0 then s.pc + slotSize s.cfg else s.pc + 2 * slotSize s.cfg

/-- The shift or rotate amount: the bits of s2 that SHIFT_MASK keeps, as a number (41_arith.md R205). -/
def shiftBy (c : Config) (b : Word) : Nat := (b &&& c.shiftMask).toNat

/-- The four forms of one arithmetic function (41_arith.md R200, R201): the value P relates to the parameters and the operands
goes to rd; the skipping forms go two slots on when it is not zero. In every state, with every operand. -/
def FourForms (reg : Reg → Reg → Reg → Instr) (immForm : Reg → Reg → Word → Instr)
    (skReg : Reg → Reg → Reg → Instr) (skImm : Reg → Reg → Word → Instr) (P : Config → Word → Word → Word → Prop) : Prop :=
  ∀ (rd rs1 rs2 : Reg) (imm : Word) (s : State),
    CompletesWith (reg rd rs1 rs2) rd (P s.cfg (s.reg rs1) (s.reg rs2)) (nextSlot s) s ∧
    CompletesWith (immForm rd rs1 imm) rd (P s.cfg (s.reg rs1) imm) (nextSlot s) s ∧
    CompletesWith (skReg rd rs1 rs2) rd (P s.cfg (s.reg rs1) (s.reg rs2)) (skipSlot s) s ∧
    CompletesWith (skImm rd rs1 imm) rd (P s.cfg (s.reg rs1) imm) (skipSlot s) s

/-- The two forms of one load (43_loadstore.md R271): where the bytes can be read, the value P relates to their little-endian
sum goes to rd, and memory stays as it was. -/
def LoadForms (reg : Reg → Reg → Reg → Instr) (immForm : Reg → Reg → Word → Instr) (w : Width)
    (P : Nat → Word → Prop) : Prop :=
  ∀ (rd rs1 rs2 : Reg) (imm : Word) (s : State),
    (ReadableAt s.mem w (s.reg rs1 + s.reg rs2).toNat →
      CompletesWith (reg rd rs1 rs2) rd (P (leSum s.mem (s.reg rs1 + s.reg rs2).toNat w.bytes)) (nextSlot s) s) ∧
    (ReadableAt s.mem w (s.reg rs1 + imm).toNat →
      CompletesWith (immForm rd rs1 imm) rd (P (leSum s.mem (s.reg rs1 + imm).toNat w.bytes)) (nextSlot s) s)

/-- i stops on s as a read at an address stops: unaligned first (20_memory.md R56), then the backend's own error. -/
def ReadFaults (i : Instr) (w : Width) (a : Nat) (s : State) : Prop :=
  (a % w.bytes ≠ 0 → exec i s = .fault (.memory .unaligned)) ∧
  (a % w.bytes = 0 → ¬ ReadRange s.mem w a → exec i s = .fault (.memory (readRangeError s.mem)))

/-- The memory m' is m with the low bytes of v stored at a (20_memory.md R54), and the block of a allocated where the
backend has blocks (R64); every other byte and block, and the backend, are as they were. -/
structure Stored (w : Width) (a : Nat) (v : Word) (m m' : Memory) : Prop where
  bytes : ∀ k, k < w.bytes → (m'.byteAt (a + k)).toNat = v.toNat / 256 ^ k % 256
  others : ∀ b, b < a ∨ a + w.bytes ≤ b → m'.byteAt b = m.byteAt b
  blocks : ∀ k, k ∈ m'.blocks ↔ k ∈ m.blocks ∨ (m.Blocked ∧ k = a / 4096)
  backend : m'.backend = m.backend

/-- i completes on s as a store of v at a (43_loadstore.md R280): the bytes are stored and only the pc is written. -/
def StoreCompletes (i : Instr) (w : Width) (a : Nat) (v : Word) (s : State) : Prop :=
  ∃ t, exec i s = .next t ∧ Stored w a v s.mem t.mem ∧ OnlyPc (s.pc + slotSize s.cfg) s t ∧ t.io = s.io

/-- The two forms of one store: where the bytes may be written, the low bytes of x[rs3] go to x[rs1] + offset. -/
def StoreForms (reg : Reg → Reg → Reg → Instr) (immForm : Reg → Reg → Word → Instr) (w : Width) : Prop :=
  ∀ (rs3 rs1 rs2 : Reg) (imm : Word) (s : State),
    (WritableAt s.mem w (s.reg rs1 + s.reg rs2).toNat →
      StoreCompletes (reg rs3 rs1 rs2) w (s.reg rs1 + s.reg rs2).toNat (s.reg rs3) s) ∧
    (WritableAt s.mem w (s.reg rs1 + imm).toNat →
      StoreCompletes (immForm rs3 rs1 imm) w (s.reg rs1 + imm).toNat (s.reg rs3) s)

/-- i completes on s and stores nothing: an ignored write (log 7). -/
def StoreIgnored (i : Instr) (s : State) : Prop :=
  ∃ t, exec i s = .next t ∧ t.mem = s.mem ∧ OnlyPc (s.pc + slotSize s.cfg) s t ∧ t.io = s.io

/-- The two forms of one store where the write is aligned and ignored. -/
def StoreFormsIgnored (reg : Reg → Reg → Reg → Instr) (immForm : Reg → Reg → Word → Instr) (w : Width) : Prop :=
  ∀ (rs3 rs1 rs2 : Reg) (imm : Word) (s : State),
    ((s.reg rs1 + s.reg rs2).toNat % w.bytes = 0 → ImageIgnores s.cfg.imageWrites s.mem (s.reg rs1 + s.reg rs2).toNat →
      StoreIgnored (reg rs3 rs1 rs2) s) ∧
    ((s.reg rs1 + imm).toNat % w.bytes = 0 → ImageIgnores s.cfg.imageWrites s.mem (s.reg rs1 + imm).toNat →
      StoreIgnored (immForm rs3 rs1 imm) s)

/-- i stops on s as a write at an address stops: unaligned first, then out of bounds unless the policy ignores it; a write never
fails Uninit. -/
def WriteFaults (i : Instr) (w : Width) (a : Nat) (s : State) : Prop :=
  (a % w.bytes ≠ 0 → exec i s = .fault (.memory .unaligned)) ∧
  (a % w.bytes = 0 → ¬ WriteRange s.mem w a → ¬ ImageIgnores s.cfg.imageWrites s.mem a →
    exec i s = .fault (.memory .outOfBounds))

/-- u is s with an all-zero frame pushed (10_state.md R28): the former top frame is seen through selectors 16 to 31, the new
one through 8 to 15; the former second frame goes out of sight; globals, memory, port and parameters are as they were. -/
structure Pushed (s u : State) : Prop where
  depth : u.regs.depth = s.regs.depth + 1
  globals : u.regs.globals = s.regs.globals
  fresh : ∀ k : Fin 8, u.reg (BitVec.ofNat 5 (8 + k.val)) = 0
  locals : ∀ k : Fin 8, u.reg (BitVec.ofNat 5 (16 + k.val)) = s.regs.top.locals[k.val]
  shared : ∀ k : Fin 8, u.reg (BitVec.ofNat 5 (24 + k.val)) = s.reg (BitVec.ofNat 5 (8 + k.val))
  freshLocals : ∀ k : Fin 8, u.regs.top.locals[k.val] = 0
  below : u.regs.below = s.regs.second :: s.regs.below
  mem : u.mem = s.mem
  io : u.io = s.io
  cfg : u.cfg = s.cfg

/-- u is s with its top frame popped (10_state.md R29): selectors 8 to 15 read what 24 to 31 read before, what was visible at
16 to 23 is hidden again, and the nearest frame below comes into sight. -/
structure Popped (s u : State) : Prop where
  depth : u.regs.depth + 1 = s.regs.depth
  globals : u.regs.globals = s.regs.globals
  shared : ∀ k : Fin 8, u.reg (BitVec.ofNat 5 (8 + k.val)) = s.reg (BitVec.ofNat 5 (24 + k.val))
  locals : ∀ k : Fin 8, u.regs.top.locals[k.val] = s.reg (BitVec.ofNat 5 (16 + k.val))
  below : u.regs.second :: u.regs.below = s.regs.below
  mem : u.mem = s.mem
  io : u.io = s.io
  cfg : u.cfg = s.cfg

/-- i completes on s as a call to a target (44_func.md R301): a frame is pushed, then the pc is the target, then the link, the
call's own pc, is written to rd in the new window. -/
def CallCompletes (i : Instr) (rd : Reg) (target : Word) (s : State) : Prop :=
  ∃ u t, Pushed s u ∧ exec i s = .next t ∧ WritesBack rd s.pc target u t ∧ t.mem = s.mem ∧ t.io = s.io

/-- bs is the n bytes from a on (20_memory.md R70). -/
def SliceOf (m : Memory) (a n : Nat) (bs : List Byte) : Prop :=
  bs.length = n ∧ ∀ k, k < n → bs[k]? = some (m.byteAt (a + k))

/-- i is an Io instruction with destination rd that calls the device with c (45_io.md R321). -/
def CallsDevice (i : Instr) (rd : Reg) (c : IoCall) (s : State) : Prop :=
  (∃ rs1 rs2 rs3, i = .io rd rs1 rs2 rs3 ∧ c = { funct := 0, s1 := s.reg rs1, s2 := s.reg rs2, s3 := s.reg rs3 }) ∨
  (∃ rs1 imm rs3, i = .ioI rd rs1 imm rs3 ∧ c = { funct := 0, s1 := s.reg rs1, s2 := imm, s3 := s.reg rs3 }) ∨
  (∃ funct rs1 rs2 rs3, i = .ioOther funct rd rs1 (.reg rs2) rs3 ∧
    c = { funct := funct, s1 := s.reg rs1, s2 := s.reg rs2, s3 := s.reg rs3 }) ∨
  (∃ funct rs1 imm rs3, i = .ioOther funct rd rs1 (.imm imm) rs3 ∧
    c = { funct := funct, s1 := s.reg rs1, s2 := imm, s3 := s.reg rs3 })

/-- d is a supplied device whose function at its next call is p, and d' is d after that call if it succeeds (45_io.md R320). -/
def Supplies (d : IoDevice) (p : IoProgram) (d' : IoDevice) : Prop :=
  (∃ turns last, d = .supplied (p :: turns) last ∧ d' = .supplied turns last) ∨ (d = .supplied [] p ∧ d' = d)

/-- Whether a call may push: always when the stack is unbounded, else below the bound (10_state.md R32). -/
def MayPush (s : State) : Prop := ∀ n, s.cfg.windowDepthMax = some n → s.regs.depth < n

end Sys2Proof.Machine
end

