-- ==== Sys2Proof/Certificates/Slice0/Obligations.lean ====
section
/-! DEFINITION. The statements for the provers, one definition per entry of OBLIGATIONS.json. -/

open Sys2Proof Sys2Proof.Machine

/-- 10_state.md R37 to R39, R451. The zeros are the spec's decision D19 (log 2), the empty image the model's (log 1). -/
def Obligations.ResetRegisters : Prop :=
  (∀ r : Reg, State.reset.reg r = 0) ∧
  (∀ k : Fin 8, State.reset.regs.top.locals[k.val] = 0) ∧
  State.reset.regs.depth = 2 ∧ State.reset.pc = 0 ∧
  (∀ a : Word, State.reset.mem.read .byte a = .error .uninit)

/-- The invariant of StepKeepsInvariant holds at reset. -/
def Obligations.ResetKeepsInvariant : Prop :=
  State.reset.Inv

/-- 20_memory.md R61, R64, R68; 10_state.md R22, R32. The canonical form is the model's (log 18). -/
def Obligations.StepKeepsInvariant : Prop :=
  ∀ s t : State, s.Inv → step s = .next t → t.Inv

/-- 70_reset_and_hazards.md R450 with 20_memory.md R59, R63, R66; zero registers by the spec's decision D19 (log 2). The model's own
are the empty record of emitted bytes (log 10), and the 0 that stands for every byte of storage a sparse or split memory has not
allocated (log 18): a read of such a byte is no 0 but fails Uninit (R63). -/
def Obligations.ConstructedCore : Prop :=
  ∀ (cfg : Config) (dev : IoDevice) (arg : BackendArg),
    (∀ image : List Byte, arg = .split image → image.length % 4 ≠ 0 → construct cfg dev arg = .error .unaligned) ∧
    ((∀ image : List Byte, arg = .split image → image.length % 4 = 0) →
      ∃ s : State, construct cfg dev arg = .ok s ∧ s.Inv ∧ s.cfg = cfg ∧
        s.io.device = dev ∧ s.io.output = [] ∧ s.regs.depth = 2 ∧ (∀ r : Reg, s.reg r = 0) ∧ s.mem.blocks = [] ∧
        (∀ size, arg = .flat size → s.mem.backend = .flat size ∧ ∀ a, s.mem.byteAt a = 0) ∧
        (arg = .sparse → s.mem.backend = .sparse ∧ ∀ a, s.mem.byteAt a = 0) ∧
        (∀ image : List Byte, arg = .split image →
          s.mem.backend = .split image.length ∧
          (∀ a, s.mem.byteAt a = if h : a < image.length then image[a] else 0)))

/-- 10_state.md R24, R27. -/
def Obligations.WindowMapping : Prop :=
  ∀ s : State,
    s.reg 0 = 0 ∧ s.pc = s.regs.globals[2] ∧
    (∀ k : Fin 8, k ≠ 0 → s.reg (BitVec.ofNat 5 k.val) = s.regs.globals[k.val]) ∧
    (∀ k : Fin 8, s.reg (BitVec.ofNat 5 (8 + k.val)) = s.regs.top.shared[k.val]) ∧
    (∀ k : Fin 8, s.reg (BitVec.ofNat 5 (16 + k.val)) = s.regs.second.locals[k.val]) ∧
    (∀ k : Fin 8, s.reg (BitVec.ofNat 5 (24 + k.val)) = s.regs.second.shared[k.val])

/-- 10_state.md R25 to R27. -/
def Obligations.RegisterWriteEffect : Prop :=
  ∀ (s : State) (r : Reg) (v : Word),
    WritesBack r v s.pc s (s.setReg r v) ∧ (r = 2 → (s.setReg r v).pc = v) ∧
    (r ≠ 2 → (s.setReg r v).reg 2 = s.reg 2) ∧
    (s.setReg r v).regs.depth = s.regs.depth ∧
    (s.setReg r v).mem = s.mem ∧ (s.setReg r v).io = s.io

/-- 10_state.md R28. -/
def Obligations.CallPushesFrame : Prop :=
  ∀ s : State, Pushed s { s with regs := s.regs.call }

/-- 10_state.md R29. -/
def Obligations.ReturnPopsFrame : Prop :=
  ∀ s : State,
    (s.regs.depth ≤ 2 → s.popWindow = .error .windowUnderflow) ∧
    (2 < s.regs.depth → ∃ u, s.popWindow = .ok u ∧ Popped s u)

/-- 10_state.md R30. -/
def Obligations.CallThenReturnIsIdentity : Prop :=
  ∀ f : RegFile, f.call.ret = some f

/-- 30_encoding.md R102 to R126: no bit of an encoding is dropped. The encoder is the model's (log 24). -/
def Obligations.DecodeEncode : Prop :=
  ∀ i : Instr, WellFormed i → decode (encode i) = .ok i

/-- 30_encoding.md R113 to R117: the ranges of the immediates. -/
def Obligations.DecodeYieldsWellFormed : Prop :=
  ∀ (w : Word) (i : Instr), decode w = .ok i → WellFormed i

/-- Words of 41_arith.md R200 to R211, 42_immupper.md R250, 43_loadstore.md R272 to R281, 44_func.md R301, 45_io.md R321. -/
def Obligations.SampleWordsDecode : Prop :=
  decode 0x00280039 = .ok (.addI 3 0 5) ∧ decode 0x00204238 = .ok (.sub 3 1 4) ∧
  decode 0x00206E0C = .ok (.sneSk 0 1 4) ∧ decode 0xFFF8403D = .ok (.addISk 3 1 (-1)) ∧
  decode 0xABCDE03F = .ok (.uadd 3 0xABCDE000) ∧ decode 0x12344A5F = .ok (.umerge 5 0x12344000) ∧
  decode 0x00204033 = .ok (.lwI 3 1 4) ∧ decode 0x00204232 = .ok (.lhu 3 1 4) ∧
  decode 0x05204006 = .ok (.sw 5 1 4) ∧ decode 0xE5F841C7 = .ok (.swI 5 1 (-4)) ∧
  decode 0x00008105 = .ok (.callI 16 4) ∧ decode 0x01FF41F5 = .ok (.callI 31 (-6)) ∧
  decode 0x00200104 = .ok (.call 16 4) ∧ decode 0x00040204 = .ok (.ret 16) ∧
  decode 0x0520403A = .ok (.io 3 1 4 5) ∧ decode 0x0008400B = .ok (.ioI 0 1 1 0) ∧
  decode 0x20084A0B = .ok (.ioOther 0x25 0 1 (.imm 1) 0) ∧ decode 0x00000000 = .ok .compressed

/-- 30_encoding.md R105 to R107. -/
def Obligations.SelectorFields : Prop :=
  ∀ (c : Config) (w : Word),
    (decodeFields c w).rd.toNat = (if (decodeFields c w).opcode = .store then 0 else fieldNat w 4 5) ∧
    (decodeFields c w).rs1.toNat =
      (if (decodeFields c w).opcode = .immUpper then fieldNat w 4 5 else fieldNat w 14 5) ∧
    (decodeFields c w).rs2.toNat = fieldNat w 19 5 ∧
    (decodeFields c w).rs3.toNat = fieldNat w 24 5

/-- 30_encoding.md R103, R104, R108 to R112, R120; 41_arith.md R204; 42_immupper.md R250. The reference numbers and the placing are
the spec's decisions D2, D4, D41, D42 (log 5). -/
def Obligations.OpcodeAndFunctFields : Prop :=
  ∀ (c : Config) (w : Word),
    c.opcodeMap.toList[fieldNat w 1 3]? = some (decodeFields c w).opcode ∧
    (decodeFields Config.reference w).opcode.bits.toNat = fieldNat w 1 3 ∧
    ((decodeFields c w).isImm = true ↔ fieldNat w 0 1 = 1 ∨ (decodeFields c w).opcode = .immUpper) ∧
    ((decodeFields c w).funct.toNat =
      if (decodeFields c w).opcode = .arith ∧ fieldNat w 0 1 = 0 then
        fieldNat w 24 5 * 256 + fieldNat w 29 3 * 32 + fieldNat w 9 5
      else if (decodeFields c w).opcode = .io then fieldNat w 29 3 * 32 + fieldNat w 9 5
      else if (decodeFields c w).opcode = .immUpper then fieldNat w 9 4
      else if (decodeFields c w).opcode = .func then fieldNat w 9 1
      else fieldNat w 9 5) ∧
    (∀ op : AluOp, c.aluFunctMap.toList[(decodeFields c w).funct.toNat]? = some op →
      ((decodeFields c w).opcode = .arith → decodeWith c w =
        .ok (arithInstr op (decodeFields c w).rd (decodeFields c w).rs1 (decodeFields c w).src2)) ∧
      ((decodeFields c w).opcode = .arithSkip → decodeWith c w =
        .ok (arithSkipInstr op (decodeFields c w).rd (decodeFields c w).rs1 (decodeFields c w).src2))) ∧
    (∀ op : ImmuOp, c.immuFunctMap.toList[(decodeFields c w).funct.toNat]? = some op →
      (decodeFields c w).opcode = .immUpper →
      decodeWith c w = .ok (immuInstr op (decodeFields c w).rd (decodeFields c w).imm))

/-- 30_encoding.md R113, R116, R117. -/
def Obligations.ImmediateFieldsAIU : Prop :=
  (∀ (c : Config) (w : Word),
    ((decodeFields c w).opcode ∈ [Opcode.compressed, .load, .arith, .arithSkip] →
      (decodeFields c w).imm.toInt = w.toInt / 2 ^ 19 ∧
      -4096 ≤ (decodeFields c w).imm.toInt ∧ (decodeFields c w).imm.toInt ≤ 4095) ∧
    ((decodeFields c w).opcode = .io →
      (decodeFields c w).imm.toNat = fieldNat w 19 5 ∧ (decodeFields c w).imm.toNat ≤ 31) ∧
    ((decodeFields c w).opcode = .immUpper →
      (decodeFields c w).imm.toNat = fieldNat w 13 19 * 2 ^ 13 ∧
      (decodeFields c w).imm = w &&& 0xFFFFE000)) ∧
  immA 0xA5A5A5A5 = 0xFFFFF4B4 ∧ immI 0xA5A5A5A5 = 0b10100 ∧ immU 0xA5A5A5A5 = 0xA5A5A000

/-- 30_encoding.md R114, R115; the pieces and the width are the spec's decisions D3 and D5 (log 5). -/
def Obligations.ImmediateFieldsSF : Prop :=
  ∀ (c : Config) (w : Word),
    ((decodeFields c w).opcode = .store →
      (decodeFields c w).imm.toInt = w.toInt / 2 ^ 29 * 1024 + fieldNat w 19 5 * 32 + fieldNat w 4 5) ∧
    ((decodeFields c w).opcode = .func →
      (c.fimmWidth = .twelve → (decodeFields c w).imm.toInt =
        (fieldNat w 14 11 * 2 : Nat) - (if fieldNat w 24 1 = 1 then 4096 else 0 : Int)) ∧
      (c.fimmWidth = .eleven → (decodeFields c w).imm.toInt =
        (fieldNat w 14 10 * 2 : Nat) - (if fieldNat w 23 1 = 1 then 2048 else 0 : Int)))

/-- 30_encoding.md R130. -/
def Obligations.IgnoredBits : Prop :=
  ∀ (c : Config) (w w' : Word),
    (((decodeFields c w).opcode = .load ∨ (decodeFields c w).opcode = .arithSkip) → fieldNat w 0 1 = 0 →
      w &&& 0x00FFFFFF = w' &&& 0x00FFFFFF → decodeWith c w = decodeWith c w') ∧
    ((decodeFields c w).opcode = .store → fieldNat w 0 1 = 0 →
      w &&& 0x1FFFFE0F = w' &&& 0x1FFFFE0F → decodeWith c w = decodeWith c w') ∧
    ((decodeFields c w).opcode = .func → fieldNat w 9 1 = 0 → fieldNat w 0 1 = 0 →
      w &&& 0x00F803FF = w' &&& 0x00F803FF → decodeWith c w = decodeWith c w') ∧
    ((decodeFields c w).opcode = .func → fieldNat w 9 1 = 0 → fieldNat w 0 1 = 1 →
      w &&& 0x01FFC3FF = w' &&& 0x01FFC3FF → decodeWith c w = decodeWith c w') ∧
    ((decodeFields c w).opcode = .func → fieldNat w 9 1 = 1 →
      w &&& 0x0007C20E = w' &&& 0x0007C20E → decodeWith c w = decodeWith c w') ∧
    ((decodeFields c w).opcode = .immUpper → w &&& 0xFFFFFFFE = w' &&& 0xFFFFFFFE → decodeWith c w = decodeWith c w') ∧
    ((decodeFields c w).opcode = .compressed → w &&& 0x0000000E = w' &&& 0x0000000E → decodeWith c w = decodeWith c w')

/-- 40_cycle.md R150, R151; the two units of the pc are the spec's decision D1. -/
def Obligations.StepRunsDecodedInstruction : Prop :=
  ∀ (s : State) (w : Word) (i : Instr),
    ReadableAt s.mem .word (codeAddress s.cfg s.pc) → w.toNat = leSum s.mem (codeAddress s.cfg s.pc) 4 →
    decodeWith s.cfg w = .ok i → step s = exec i s

/-- 40_cycle.md R151, R152; the two units of the pc are the spec's decision D1. -/
def Obligations.FetchErrorStopsStep : Prop :=
  ∀ s : State,
    (codeAddress s.cfg s.pc % 4 ≠ 0 → step s = .fault (.memory .unaligned)) ∧
    (codeAddress s.cfg s.pc % 4 = 0 → ¬ ReadRange s.mem .word (codeAddress s.cfg s.pc) →
      step s = .fault (.memory (readRangeError s.mem))) ∧
    (s.cfg.pcUnit = .word → codeAddress s.cfg s.pc % 4 = 0)

/-- The model's own placing of a word (log 1, log 21), for 40_cycle.md R150. -/
def Obligations.PlacedWordRuns : Prop :=
  ∀ (s : State) (nbits w : Nat) (i : Instr),
    decodeWith s.cfg (BitVec.ofNat 32 (w % 2 ^ nbits)) = .ok i →
    step (s.withFetchWord nbits w) = exec i (s.withFetchWord nbits w) ∧
    (s.withFetchWord nbits w).cfg = s.cfg ∧ (s.withFetchWord nbits w).io = s.io ∧
    (∀ r : Reg, r ≠ 2 → (s.withFetchWord nbits w).reg r = s.reg r) ∧
    (s.cfg.pcUnit = .word → (s.withFetchWord nbits w).pc = s.pc)

/-- 41_arith.md R202. A fault carries no state: the state stays the one before the cycle (log 23). -/
def Obligations.ArithmeticFunctWords : Prop :=
  ∀ (s : State) (w : Word), s.fetch = .ok w →
    (step s = .fault .arithmeticFunct ↔
      (decodeFields s.cfg w).opcode = .arith ∧ 32 ≤ (decodeFields s.cfg w).funct.toNat) ∧
    ((decodeFields s.cfg w).opcode = .arith → 32 ≤ (decodeFields s.cfg w).funct.toNat →
      (decodeFields s.cfg w).isImm = false) ∧
    ((decodeFields s.cfg w).opcode = .arithSkip → (decodeFields s.cfg w).funct.toNat < 32)

/-- 43_loadstore.md R277, R284. -/
def Obligations.LoadStoreFunctWords : Prop :=
  ∀ (s : State) (w : Word), s.fetch = .ok w →
    (step s = .fault .loadFunct ↔ (decodeFields s.cfg w).opcode = .load ∧ 5 ≤ fieldNat w 9 5) ∧
    (step s = .fault .storeFunct ↔ (decodeFields s.cfg w).opcode = .store ∧ 3 ≤ fieldNat w 9 5)

/-- 41_arith.md R210, R211. -/
def Obligations.AddSubEffect : Prop :=
  FourForms .add .addI .addSk .addISk (fun _ a b v => v.toNat = (a.toNat + b.toNat) % 2 ^ 32) ∧
  FourForms .sub .subI .subSk .subISk (fun _ a b v => (v.toNat + a.toNat) % 2 ^ 32 = b.toNat)

/-- 41_arith.md R212 to R215. -/
def Obligations.LogicEffect : Prop :=
  FourForms .and .andI .andSk .andISk (fun _ a b v => ∀ k, k < 32 → v.getLsbD k = (a.getLsbD k && b.getLsbD k)) ∧
  FourForms .or .orI .orSk .orISk (fun _ a b v => ∀ k, k < 32 → v.getLsbD k = (a.getLsbD k || b.getLsbD k)) ∧
  FourForms .xor .xorI .xorSk .xorISk (fun _ a b v => ∀ k, k < 32 → v.getLsbD k = (a.getLsbD k != b.getLsbD k)) ∧
  FourForms .not .notI .notSk .notISk (fun _ a _ v => ∀ k, k < 32 → v.getLsbD k = !a.getLsbD k)

/-- 41_arith.md R216 to R219; MULH is the spec's decision D8 (log 15). -/
def Obligations.ProductEffect : Prop :=
  FourForms .mulu .muluI .muluSk .muluISk (fun _ a b v => v.toNat = a.toNat * b.toNat % 2 ^ 32) ∧
  FourForms .mulhu .mulhuI .mulhuSk .mulhuISk (fun _ a b v => v.toNat = a.toNat * b.toNat / 2 ^ 32) ∧
  FourForms .mul .mulI .mulSk .mulISk (fun _ a b v => (v.toNat : Int) = a.toInt * b.toInt % 2 ^ 32) ∧
  FourForms .mulh .mulhI .mulhSk .mulhISk (fun _ a b v => v.toInt = a.toInt * b.toInt / 2 ^ 32)

/-- 41_arith.md R220, R221. -/
def Obligations.UnsignedDivisionEffect : Prop :=
  FourForms .divu .divuI .divuSk .divuISk (fun _ a b v => if b = 0 then v = 0xFFFFFFFF else v.toNat = a.toNat / b.toNat) ∧
  FourForms .remu .remuI .remuSk .remuISk (fun _ a b v => if b = 0 then v = a else v.toNat = a.toNat % b.toNat)

/-- 41_arith.md R206, R222, R223; rounding and overflow are the spec's decision D11 (log 14). -/
def Obligations.SignedDivisionEffect : Prop :=
  FourForms .div .divI .divSk .divISk (fun _ a b v =>
    if b = 0 then v.toInt = -1
    else if a.toInt = -2 ^ 31 ∧ b.toInt = -1 then v.toInt = -2 ^ 31
    else ∃ r : Int, a.toInt = v.toInt * b.toInt + r ∧ r.natAbs < b.toInt.natAbs ∧ (r = 0 ∨ (r < 0 ↔ a.toInt < 0))) ∧
  FourForms .rem .remI .remSk .remISk (fun _ a b v =>
    if b = 0 then v = a
    else if a.toInt = -2 ^ 31 ∧ b.toInt = -1 then v = 0
    else ∃ q : Int, a.toInt = q * b.toInt + v.toInt ∧ v.toInt.natAbs < b.toInt.natAbs ∧
      (v = 0 ∨ (v.toInt < 0 ↔ a.toInt < 0)))

/-- 41_arith.md R205, R224 to R227; the amount is the spec's decision D10, and the distance of an amount above 31, which only
another SHIFT_MASK gives, is the model's reading of the pseudocode (log 6). -/
def Obligations.ShiftEffect : Prop :=
  FourForms .shl .shlI .shlSk .shlISk (fun c a b v => v.toNat = a.toNat * 2 ^ shiftBy c b % 2 ^ 32) ∧
  FourForms .shr .shrI .shrSk .shrISk (fun c a b v => v.toNat = a.toNat / 2 ^ shiftBy c b) ∧
  FourForms .sal .salI .salSk .salISk (fun c a b v => v.toNat = a.toNat * 2 ^ shiftBy c b % 2 ^ 32) ∧
  FourForms .sar .sarI .sarSk .sarISk (fun c a b v => v.toInt = a.toInt / 2 ^ shiftBy c b) ∧
  (∀ (c : Config) (b : Word), c.shiftMask = Config.reference.shiftMask → shiftBy c b = b.toNat % 32)

/-- 41_arith.md R205, R228, R229; the amount is the spec's decision D10, and that it counts modulo 32 under another SHIFT_MASK is
the model's reading (log 6). -/
def Obligations.RotateEffect : Prop :=
  FourForms .rol .rolI .rolSk .rolISk (fun c a b v => ∀ k, k < 32 → v.getLsbD ((k + shiftBy c b) % 32) = a.getLsbD k) ∧
  FourForms .ror .rorI .rorSk .rorISk (fun c a b v => ∀ k, k < 32 → v.getLsbD k = a.getLsbD ((k + shiftBy c b) % 32))

/-- 41_arith.md R232 to R240. -/
def Obligations.EqualityAndUnsignedCompareEffect : Prop :=
  FourForms .seq .seqI .seqSk .seqISk (fun _ a b v => v = if a.toNat = b.toNat then 1 else 0) ∧
  FourForms .sne .sneI .sneSk .sneISk (fun _ a b v => v = if a.toNat = b.toNat then 0 else 1) ∧
  FourForms .sgtu .sgtuI .sgtuSk .sgtuISk (fun _ a b v => v = if b.toNat < a.toNat then 1 else 0) ∧
  FourForms .sgeu .sgeuI .sgeuSk .sgeuISk (fun _ a b v => v = if a.toNat < b.toNat then 0 else 1) ∧
  FourForms .sltu .sltuI .sltuSk .sltuISk (fun _ a b v => v = if a.toNat < b.toNat then 1 else 0) ∧
  FourForms .sleu .sleuI .sleuSk .sleuISk (fun _ a b v => v = if b.toNat < a.toNat then 0 else 1)

/-- 41_arith.md R235 to R241. -/
def Obligations.SignedCompareEffect : Prop :=
  FourForms .sgt .sgtI .sgtSk .sgtISk (fun _ a b v => v = if b.toInt < a.toInt then 1 else 0) ∧
  FourForms .sge .sgeI .sgeSk .sgeISk (fun _ a b v => v = if a.toInt < b.toInt then 0 else 1) ∧
  FourForms .slt .sltI .sltSk .sltISk (fun _ a b v => v = if a.toInt < b.toInt then 1 else 0) ∧
  FourForms .sle .sleI .sleSk .sleISk (fun _ a b v => v = if b.toInt < a.toInt then 0 else 1)

/-- 60_exceptions.md R408; the spec's decisions D8, D12, D36 (log 25). -/
def Obligations.UnassignedFunctsRefused : Prop :=
  ∀ (rd rs1 rs2 : Reg) (imm : Word) (s : State),
    exec (.arithF20 rd rs1 rs2) s = .refused (.arithFunctUnassigned 20) ∧
    exec (.arithF20I rd rs1 imm) s = .refused (.arithFunctUnassigned 20) ∧
    exec (.arithF20Sk rd rs1 rs2) s = .refused (.arithFunctUnassigned 20) ∧
    exec (.arithF20ISk rd rs1 imm) s = .refused (.arithFunctUnassigned 20) ∧
    exec (.arithF21 rd rs1 rs2) s = .refused (.arithFunctUnassigned 21) ∧
    exec (.arithF21I rd rs1 imm) s = .refused (.arithFunctUnassigned 21) ∧
    exec (.arithF21Sk rd rs1 rs2) s = .refused (.arithFunctUnassigned 21) ∧
    exec (.arithF21ISk rd rs1 imm) s = .refused (.arithFunctUnassigned 21) ∧
    exec (.immUpperF6 rd imm) s = .refused (.immUpperFunctUnassigned 6) ∧
    exec (.immUpperF7 rd imm) s = .refused (.immUpperFunctUnassigned 7)

/-- 42_immupper.md R250, R252 to R257. -/
def Obligations.ImmUpperEffect : Prop :=
  ∀ (rd : Reg) (imm : Word) (s : State),
    CompletesWith (.uadd rd imm) rd (fun v => v.toNat = ((s.reg rd).toNat + imm.toNat) % 2 ^ 32) (nextSlot s) s ∧
    CompletesWith (.usub rd imm) rd (fun v => (v.toNat + imm.toNat) % 2 ^ 32 = (s.reg rd).toNat) (nextSlot s) s ∧
    CompletesWith (.uand rd imm) rd
      (fun v => ∀ k, k < 32 → v.getLsbD k = ((s.reg rd).getLsbD k && imm.getLsbD k)) (nextSlot s) s ∧
    CompletesWith (.uor rd imm) rd
      (fun v => ∀ k, k < 32 → v.getLsbD k = ((s.reg rd).getLsbD k || imm.getLsbD k)) (nextSlot s) s ∧
    CompletesWith (.uxor rd imm) rd
      (fun v => ∀ k, k < 32 → v.getLsbD k = ((s.reg rd).getLsbD k != imm.getLsbD k)) (nextSlot s) s ∧
    CompletesWith (.umerge rd imm) rd
      (fun v => v.toNat = imm.toNat / 2 ^ 13 * 2 ^ 13 + (s.reg rd).toNat % 2 ^ 13) (nextSlot s) s

/-- 42_immupper.md R251. A fault carries no state: the state stays the one before the cycle (log 23). -/
def Obligations.ImmUpperFunctWords : Prop :=
  (∀ (s : State) (w : Word), s.fetch = .ok w →
    (step s = .fault .immUpperFunct ↔
      (decodeFields s.cfg w).opcode = .immUpper ∧ 8 ≤ (decodeFields s.cfg w).funct.toNat) ∧
    ((decodeFields s.cfg w).opcode = .immUpper →
      (8 ≤ (decodeFields s.cfg w).funct.toNat ↔ fieldNat w 12 1 = 1))) ∧
  (∀ (funct : BitVec 4) (rd : Reg) (imm : Word) (s : State),
    exec (.immUpperBadFunct funct rd imm) s = .fault .immUpperFunct)

/-- 42_immupper.md R257. -/
def Obligations.TwoInstructionConstant : Prop :=
  ∀ (c : Word) (rd : Reg) (s : State), rd ≠ 0 → rd ≠ 2 →
    ∃ (lo hi : Word) (t u : State), WellFormed (.addI rd 0 lo) ∧ WellFormed (.umerge rd hi) ∧
      exec (.addI rd 0 lo) s = .next t ∧ exec (.umerge rd hi) t = .next u ∧
      u.reg rd = c ∧ u.pc = s.pc + 2 * slotSize s.cfg ∧
      (∀ r : Reg, r ≠ rd → r ≠ 2 → u.reg r = s.reg r) ∧ u.mem = s.mem

/-- 43_loadstore.md R270 to R276; the ranges of the backends are 20_memory.md R55 to R67. -/
def Obligations.LoadsComplete : Prop :=
  LoadForms .lw .lwI .word (fun n v => v.toNat = n) ∧
  LoadForms .lhu .lhuI .half (fun n v => v.toNat = n) ∧
  LoadForms .lh .lhI .half (fun n v => v.toInt = if n < 32768 then (n : Int) else (n : Int) - 65536) ∧
  LoadForms .lbu .lbuI .byte (fun n v => v.toNat = n) ∧
  LoadForms .lb .lbI .byte (fun n v => v.toInt = if n < 128 then (n : Int) else (n : Int) - 256)

/-- 43_loadstore.md R271; 20_memory.md R55, R56 (the order is the spec's decision D22), R57, R62, R67. -/
def Obligations.LoadsFault : Prop :=
  ∀ (rd rs1 rs2 : Reg) (imm : Word) (s : State),
    ReadFaults (.lw rd rs1 rs2) .word (s.reg rs1 + s.reg rs2).toNat s ∧
    ReadFaults (.lwI rd rs1 imm) .word (s.reg rs1 + imm).toNat s ∧
    ReadFaults (.lhu rd rs1 rs2) .half (s.reg rs1 + s.reg rs2).toNat s ∧
    ReadFaults (.lhuI rd rs1 imm) .half (s.reg rs1 + imm).toNat s ∧
    ReadFaults (.lh rd rs1 rs2) .half (s.reg rs1 + s.reg rs2).toNat s ∧
    ReadFaults (.lhI rd rs1 imm) .half (s.reg rs1 + imm).toNat s ∧
    ReadFaults (.lbu rd rs1 rs2) .byte (s.reg rs1 + s.reg rs2).toNat s ∧
    ReadFaults (.lbuI rd rs1 imm) .byte (s.reg rs1 + imm).toNat s ∧
    ReadFaults (.lb rd rs1 rs2) .byte (s.reg rs1 + s.reg rs2).toNat s ∧
    ReadFaults (.lbI rd rs1 imm) .byte (s.reg rs1 + imm).toNat s

/-- 43_loadstore.md R270, R280 to R283; 20_memory.md R54, R60, R64, R68. What an ignored write does is the model's reading of
IMAGE_WRITE_POLICY (log 7). -/
def Obligations.StoresComplete : Prop :=
  StoreForms .sw .swI .word ∧ StoreForms .sh .shI .half ∧ StoreForms .sb .sbI .byte ∧
  StoreFormsIgnored .sw .swI .word ∧ StoreFormsIgnored .sh .shI .half ∧ StoreFormsIgnored .sb .sbI .byte

/-- 43_loadstore.md R280; 20_memory.md R55, R56, R60, R68 (the spec's decisions D21, D22; log 7). -/
def Obligations.StoresFault : Prop :=
  ∀ (rs3 rs1 rs2 : Reg) (imm : Word) (s : State),
    WriteFaults (.sw rs3 rs1 rs2) .word (s.reg rs1 + s.reg rs2).toNat s ∧
    WriteFaults (.swI rs3 rs1 imm) .word (s.reg rs1 + imm).toNat s ∧
    WriteFaults (.sh rs3 rs1 rs2) .half (s.reg rs1 + s.reg rs2).toNat s ∧
    WriteFaults (.shI rs3 rs1 imm) .half (s.reg rs1 + imm).toNat s ∧
    WriteFaults (.sb rs3 rs1 rs2) .byte (s.reg rs1 + s.reg rs2).toNat s ∧
    WriteFaults (.sbI rs3 rs1 imm) .byte (s.reg rs1 + imm).toNat s

/-- 20_memory.md R76. A write that IMAGE_WRITE_POLICY ignores (none under the reference policy) does not store, and has a clause
of its own (log 7). -/
def Obligations.MemoryRoundTrip : Prop :=
  ∀ (m m' : Memory) (p : ImageWrites) (a v : Word),
    (¬ ImageIgnores p m a.toNat →
      (m.write p .word a v = .ok m' → m'.read .word a = .ok v) ∧
      (m.write p .half a v = .ok m' → m'.read .half a = .ok (BitVec.ofNat 32 (v.toNat % 65536))) ∧
      (m.write p .byte a v = .ok m' → m'.read .byte a = .ok (BitVec.ofNat 32 (v.toNat % 256)))) ∧
    (ImageIgnores p m a.toNat → ∀ w : Width, m.write p w a v = .ok m' → m' = m)

/-- 20_memory.md R54. A write that IMAGE_WRITE_POLICY ignores (none under the reference policy) stores nothing (log 7). -/
def Obligations.WriteTouchesItsBytesOnly : Prop :=
  ∀ (m m' : Memory) (p : ImageWrites) (w : Width) (a v : Word), m.write p w a v = .ok m' →
    (¬ ImageIgnores p m a.toNat → ∀ i, i < w.bytes → m'.byteAt (a.toNat + i) = v.extractLsb' (8 * i) 8) ∧
    (∀ b, b < a.toNat ∨ a.toNat + w.bytes ≤ b → m'.byteAt b = m.byteAt b) ∧
    (ImageIgnores p m a.toNat → m' = m)

/-- 20_memory.md R53. -/
def Obligations.LittleEndianNarrowReads : Prop :=
  (∀ (m : Memory) (w : Width) (a v : Word), m.read w a = .ok v → v.toNat = leSum m a.toNat w.bytes) ∧
  (∀ (m m' : Memory) (p : ImageWrites) (a v : Word), ¬ ImageIgnores p m a.toNat → m.write p .word a v = .ok m' →
    m'.read .byte a = .ok (BitVec.ofNat 32 (v.toNat % 256)) ∧
    m'.read .byte (a + 3) = .ok (BitVec.ofNat 32 (v.toNat / 2 ^ 24)) ∧
    m'.read .half (a + 2) = .ok (BitVec.ofNat 32 (v.toNat / 2 ^ 16)))

/-- 20_memory.md R55. -/
def Obligations.NaturalAlignment : Prop :=
  ∀ (m : Memory) (p : ImageWrites) (w : Width) (a v : Word),
    (a.toNat % w.bytes ≠ 0 → m.read w a = .error .unaligned ∧ m.write p w a v = .error .unaligned) ∧
    (a.toNat % w.bytes = 0 → m.read w a ≠ .error .unaligned ∧ m.write p w a v ≠ .error .unaligned) ∧
    (Width.word.bytes = 4 ∧ Width.half.bytes = 2 ∧ Width.byte.bytes = 1) ∧
    (∀ s : State, s.fetch = .error .unaligned ↔ codeAddress s.cfg s.pc % 4 ≠ 0)

/-- 20_memory.md R57 to R68; decisions D20, D21, D22 of the spec (log 7, log 16). -/
def Obligations.AccessOutcomes : Prop :=
  ∀ (m : Memory) (p : ImageWrites) (w : Width) (a v : Word), a.toNat % w.bytes = 0 →
    (ReadRange m w a.toNat → ∃ x, m.read w a = .ok x) ∧
    (¬ ReadRange m w a.toNat → m.read w a = .error (readRangeError m)) ∧
    (WriteRange m w a.toNat → ∃ m', m.write p w a v = .ok m') ∧
    (ImageIgnores p m a.toNat → m.write p w a v = .ok m) ∧
    (¬ WriteRange m w a.toNat → ¬ ImageIgnores p m a.toNat → m.write p w a v = .error .outOfBounds)

/-- 20_memory.md R64. -/
def Obligations.SparseWriteAllocates : Prop :=
  ∀ (m : Memory) (p : ImageWrites) (w : Width) (a v : Word), m.wf → m.backend = .sparse → a.toNat % w.bytes = 0 →
    ∃ m', m.write p w a v = .ok m' ∧ Stored w a.toNat v m m' ∧
      (∀ b : Word, b.toNat / 4096 = a.toNat / 4096 → ∃ x, m'.read .byte b = .ok x) ∧
      (a.toNat / 4096 ∉ m.blocks → ∀ b : Word, b.toNat / 4096 = a.toNat / 4096 →
        b.toNat < a.toNat ∨ a.toNat + w.bytes ≤ b.toNat → m'.read .byte b = .ok 0)

/-- 20_memory.md R70 to R73; the truncations of R71 and R73 are the spec's decision D22. -/
def Obligations.ReadSliceBounds : Prop :=
  ∀ (m : Memory) (a : Word) (len : Nat),
    (∀ size, m.backend = .flat size →
      (size ≤ a.toNat → m.readSlice a len = .error .outOfBounds) ∧
      (a.toNat < size → ∃ bs, m.readSlice a len = .ok bs ∧ SliceOf m a.toNat (min len (size - a.toNat)) bs)) ∧
    (∀ L, m.backend = .split L → a.toNat < L →
      ∃ bs, m.readSlice a len = .ok bs ∧ SliceOf m a.toNat (min len (L - a.toNat)) bs) ∧
    ((m.backend = .sparse ∨ ∃ L, m.backend = .split L ∧ L ≤ a.toNat) →
      (a.toNat / 4096 ∉ m.blocks → m.readSlice a len = .error .uninit) ∧
      (a.toNat / 4096 ∈ m.blocks →
        ∃ bs, m.readSlice a len = .ok bs ∧ SliceOf m a.toNat (min len (4096 - a.toNat % 4096)) bs))

/-- 44_func.md R301; the link is the spec's decision D16 (log 12). -/
def Obligations.CallsComplete : Prop :=
  ∀ (rd rs2 : Reg) (imm : Word) (s : State), MayPush s →
    CallCompletes (.call rd rs2) rd (s.pc + s.reg rs2) s ∧
    CallCompletes (.callI rd imm) rd (s.pc + imm) s

/-- 44_func.md R302; the continuation is the spec's decision D17 (log 12). -/
def Obligations.RetCompletes : Prop :=
  ∀ (rs1 : Reg) (s : State), 2 < s.regs.depth →
    ∃ u t, Popped s u ∧ exec (.ret rs1) s = .next t ∧ OnlyPc (s.reg rs1 + slotSize s.cfg) u t ∧
      t.mem = s.mem ∧ t.io = s.io

/-- 60_exceptions.md R406, R407; the bound is the spec's decision D18 (log 19). -/
def Obligations.WindowFaults : Prop :=
  (∀ (rs1 : Reg) (s : State), s.regs.depth = 2 → exec (.ret rs1) s = .fault .windowUnderflow) ∧
  (∀ (rd rs2 : Reg) (imm : Word) (s : State) (n : Nat), s.cfg.windowDepthMax = some n → n ≤ s.regs.depth →
    exec (.call rd rs2) s = .fault .windowOverflow ∧ exec (.callI rd imm) s = .fault .windowOverflow)

/-- 44_func.md R302, R303; the spec's decisions D16, D17 (log 12). -/
def Obligations.CallThenRetComesBack : Prop :=
  ∀ (L rs2 : Reg) (imm : Word) (s : State), L ≠ 0 → L ≠ 2 → MayPush s →
    ∀ i : Instr, i = .callI L imm ∨ i = .call L rs2 →
      ∃ t u, exec i s = .next t ∧ exec (.ret L) t = .next u ∧
        u.pc = s.pc + slotSize s.cfg ∧ u.regs.depth = s.regs.depth ∧ u.regs.below = s.regs.below ∧
        u.mem = s.mem ∧ u.io = s.io ∧ u.cfg = s.cfg ∧
        (∀ r : Reg, r ≠ 2 → u.reg r =
          if (r = L ∧ L.toNat < 8) ∨ (24 ≤ L.toNat ∧ r.toNat + 16 = L.toNat) then s.pc else s.reg r) ∧
        (∀ k : Fin 8, u.regs.top.locals[k.val] =
          if L.toNat = 16 + k.val then s.pc else s.regs.top.locals[k.val])

/-- 45_io.md R321 to R323; the spec's decisions D25, D26; the output record is the model's (log 10). -/
def Obligations.IoWritesByteToStream : Prop :=
  ∀ (rd rs1 rs2 rs3 : Reg) (imm : Word) (s : State), s.io.device = .reference →
    (s.reg rs2 ∈ s.cfg.ioStdFds →
      ∃ t, exec (.io rd rs1 rs2 rs3) s = .next t ∧ WritesBack rd 0 (s.pc + slotSize s.cfg) s t ∧
        t.mem = s.mem ∧ t.io.device = .reference ∧
        t.io.output = s.io.output ++ [{ stream := s.reg rs2, byte := BitVec.ofNat 8 (s.reg rs1).toNat }]) ∧
    (imm ∈ s.cfg.ioStdFds →
      ∃ t, exec (.ioI rd rs1 imm rs3) s = .next t ∧ WritesBack rd 0 (s.pc + slotSize s.cfg) s t ∧
        t.mem = s.mem ∧ t.io.device = .reference ∧
        t.io.output = s.io.output ++ [{ stream := imm, byte := BitVec.ofNat 8 (s.reg rs1).toNat }])

/-- 45_io.md R320, R322 to R324; the spec's decisions D25, D26. -/
def Obligations.IoRejections : Prop :=
  ∀ (funct : BitVec 8) (rd rs1 rs2 rs3 : Reg) (imm : Word) (src : Src2) (s : State),
    (s.io.device = .reference →
      (s.reg rs2 ∉ s.cfg.ioStdFds → exec (.io rd rs1 rs2 rs3) s = .fault .ioFunct) ∧
      (imm ∉ s.cfg.ioStdFds → exec (.ioI rd rs1 imm rs3) s = .fault .ioFunct) ∧
      (funct ≠ 0 → exec (.ioOther funct rd rs1 src rs3) s = .fault .ioFunct)) ∧
    (s.io.device = .absent →
      exec (.io rd rs1 rs2 rs3) s = .fault .ioFunct ∧ exec (.ioI rd rs1 imm rs3) s = .fault .ioFunct ∧
      exec (.ioOther funct rd rs1 src rs3) s = .fault .ioFunct)

/-- 45_io.md R320, R321, R325; a device's function written out as data is the model's form (log 10, log 11), and the last clause says
that every function of the operands and of how each byte read and each byte write would end has that form. -/
def Obligations.IoCompletesWithSuppliedDevice : Prop :=
  (∀ (i : Instr) (rd : Reg) (c : IoCall) (s : State) (p : IoProgram) (d : IoDevice)
    (v : Word) (ws : List IoWrite) (bs : List IoByte) (m : Memory),
    CallsDevice i rd c s → Supplies s.io.device p d →
    p.reply s.cfg.imageWrites c s.mem = .ok v ws bs → applyWrites s.cfg.imageWrites ws s.mem = .ok m →
      ∃ t, exec i s = .next t ∧ WritesBack rd v (s.pc + slotSize s.cfg) s t ∧ t.mem = m ∧
        t.io.device = d ∧ t.io.output = s.io.output ++ bs) ∧
  (∀ F : IoCall → (Word → Except MemError Word) → (Word → Option MemError) → IoReply,
    ∃ p : IoProgram, ∀ (q : ImageWrites) (c : IoCall) (m : Memory),
      p.reply q c m = F c (fun a => m.read .byte a) (fun a => m.writeError q .byte a.toNat))

/-- 45_io.md R324; the spec's decision D25 (log 11). -/
def Obligations.IoErrorsTranslated : Prop :=
  ∀ (i : Instr) (rd : Reg) (c : IoCall) (s : State) (p : IoProgram) (d : IoDevice),
    CallsDevice i rd c s → Supplies s.io.device p d →
      (p.reply s.cfg.imageWrites c s.mem = .err .unknownFunct → exec i s = .fault .ioFunct) ∧
      (p.reply s.cfg.imageWrites c s.mem = .err .badDescriptor → exec i s = .fault .ioFunct) ∧
      (∀ e, p.reply s.cfg.imageWrites c s.mem = .err (.memory e) → exec i s = .fault (.memory e)) ∧
      (∀ v ws bs e, p.reply s.cfg.imageWrites c s.mem = .ok v ws bs → applyWrites s.cfg.imageWrites ws s.mem = .error e →
        exec i s = .fault (.memory e))

/-- 46_compressed.md R340. A fault carries no state: the state stays the one before the cycle. -/
def Obligations.CompressedWordsStop : Prop :=
  (∀ (s : State) (w : Word), s.fetch = .ok w →
    (step s = .fault .compressedUnsupported ↔ (decodeFields s.cfg w).opcode = .compressed) ∧
    (s.cfg.opcodeMap = Config.reference.opcodeMap →
      (step s = .fault .compressedUnsupported ↔ fieldNat w 1 3 = 0))) ∧
  (∀ s : State, exec .compressed s = .fault .compressedUnsupported)

/-- 40_cycle.md R157, R162; 20_memory.md R75. -/
def Obligations.OnlyStoreAndIoChangeMemory : Prop :=
  ∀ (s t : State) (w : Word), s.fetch = .ok w → step s = .next t →
    ((decodeFields s.cfg w).opcode ≠ .store → (decodeFields s.cfg w).opcode ≠ .io → t.mem = s.mem) ∧
    ((decodeFields s.cfg w).opcode ≠ .io → t.io = s.io)

/-- 40_cycle.md R158; 30_encoding.md R111 (the spec's decision D41). -/
def Obligations.OnlyFuncChangesWindows : Prop :=
  ∀ (s t : State) (w : Word), s.fetch = .ok w → step s = .next t →
    ((decodeFields s.cfg w).opcode ≠ .func → t.regs.depth = s.regs.depth ∧ t.regs.below = s.regs.below ∧
      t.regs.top.locals = s.regs.top.locals) ∧
    ((decodeFields s.cfg w).opcode = .func → fieldNat w 9 1 = 0 → t.regs.depth = s.regs.depth + 1) ∧
    ((decodeFields s.cfg w).opcode = .func → fieldNat w 9 1 = 1 → t.regs.depth + 1 = s.regs.depth)

/-- 40_cycle.md R160; 30_encoding.md R105, R106. -/
def Obligations.OneDestinationPerStep : Prop :=
  ∀ (s t : State) (w : Word), s.fetch = .ok w → step s = .next t → (decodeFields s.cfg w).opcode ≠ .func →
    (∀ r : Reg, r ≠ 2 → r.toNat ≠ fieldNat w 4 5 → t.reg r = s.reg r) ∧
    ((decodeFields s.cfg w).opcode = .store → ∀ r : Reg, r ≠ 2 → t.reg r = s.reg r)

/-- 20_memory.md R51, R68 (the spec's decision D21, log 7). -/
def Obligations.ImageAndBackendNeverChange : Prop :=
  ∀ s t : State, step s = .next t →
    t.cfg = s.cfg ∧ t.mem.backend = s.mem.backend ∧ (∀ k, k ∈ s.mem.blocks → k ∈ t.mem.blocks) ∧
    (∀ L, s.mem.backend = .split L → ∀ a, a < L → t.mem.byteAt a = s.mem.byteAt a)

/-- 40_cycle.md R164; the spec's decision D23 (log 22). -/
def Obligations.RunStopsForGood : Prop :=
  ∀ (n : Nat) (s : State),
    (∀ x, (runFor n s).stop = some x → ∀ k, runFor (n + k) s = runFor n s) ∧
    (∀ f, (runFor n s).stop = some (.fault f) → step (runFor n s).state = .fault f) ∧
    (∀ r, (runFor n s).stop = some (.refusal r) → step (runFor n s).state = .refused r) ∧
    ((runFor n s).stop = none → (runFor n s).cycles = n)
end

