-- ==== Sys2Proof/Laws/Encoding.lean ====
section
/-! SUPPORT. What each field of a packed word reads as, and that the immediates an encoding admits are put together again. -/

namespace Sys2Proof

section Pack
variable (mid : BitVec 3) (hi rs2 rs1 lo rd : BitVec 5) (op : Opcode) (i : Bool)

theorem pack_bit0 : (pack mid hi rs2 rs1 lo rd op i).getLsbD 0 = i := by
  unfold pack
  rw [BitVec.getLsbD_append, if_pos (by decide)]
  cases i <;> rfl

theorem extract_pack_op : extract (pack mid hi rs2 rs1 lo rd op i) 1 3 = op.bits := by
  unfold pack extract
  apply BitVec.eq_of_getLsbD_eq; intro j hj
  simp only [BitVec.getLsbD_extractLsb', BitVec.getLsbD_append]
  split_ifs <;> first | omega | (simp only [hj, decide_true, Bool.true_and]; congr 1; omega)

theorem extract_pack_rd : extract (pack mid hi rs2 rs1 lo rd op i) 4 5 = rd := by
  unfold pack extract
  apply BitVec.eq_of_getLsbD_eq; intro j hj
  simp only [BitVec.getLsbD_extractLsb', BitVec.getLsbD_append]
  split_ifs <;> first | omega | (simp only [hj, decide_true, Bool.true_and]; congr 1; omega)

theorem extract_pack_lo : extract (pack mid hi rs2 rs1 lo rd op i) 9 5 = lo := by
  unfold pack extract
  apply BitVec.eq_of_getLsbD_eq; intro j hj
  simp only [BitVec.getLsbD_extractLsb', BitVec.getLsbD_append]
  split_ifs <;> first | omega | (simp only [hj, decide_true, Bool.true_and]; congr 1; omega)

theorem extract_pack_rs1 : extract (pack mid hi rs2 rs1 lo rd op i) 14 5 = rs1 := by
  unfold pack extract
  apply BitVec.eq_of_getLsbD_eq; intro j hj
  simp only [BitVec.getLsbD_extractLsb', BitVec.getLsbD_append]
  split_ifs <;> first | omega | (simp only [hj, decide_true, Bool.true_and]; congr 1; omega)

theorem extract_pack_rs2 : extract (pack mid hi rs2 rs1 lo rd op i) 19 5 = rs2 := by
  unfold pack extract
  apply BitVec.eq_of_getLsbD_eq; intro j hj
  simp only [BitVec.getLsbD_extractLsb', BitVec.getLsbD_append]
  split_ifs <;> first | omega | (simp only [hj, decide_true, Bool.true_and]; congr 1; omega)

theorem extract_pack_hi : extract (pack mid hi rs2 rs1 lo rd op i) 24 5 = hi := by
  unfold pack extract
  apply BitVec.eq_of_getLsbD_eq; intro j hj
  simp only [BitVec.getLsbD_extractLsb', BitVec.getLsbD_append]
  split_ifs <;> first | omega | (simp only [hj, decide_true, Bool.true_and]; congr 1; omega)

theorem extract_pack_mid : extract (pack mid hi rs2 rs1 lo rd op i) 29 3 = mid := by
  unfold pack extract
  apply BitVec.eq_of_getLsbD_eq; intro j hj
  simp only [BitVec.getLsbD_extractLsb', BitVec.getLsbD_append]
  split_ifs <;> first | omega | (simp only [hj, decide_true, Bool.true_and]; congr 1; omega)

/-- The field of the A-immediate (30_encoding.md R113). -/
theorem extract_pack_immA : extract (pack mid hi rs2 rs1 lo rd op i) 19 13 = mid ++ hi ++ rs2 := by
  unfold pack extract
  apply BitVec.eq_of_getLsbD_eq; intro j hj
  simp only [BitVec.getLsbD_extractLsb', BitVec.getLsbD_append]
  split_ifs <;> first | omega | (simp only [hj, decide_true, Bool.true_and]; congr 1; omega)

/-- The reference OPCODE_MAP and its numbers are inverse (D2). -/
theorem bits_ofBits (b : BitVec 3) : (Opcode.ofBits Config.reference b).bits = b := by revert b; decide

theorem ofBits_bits (op : Opcode) : Opcode.ofBits Config.reference op.bits = op := by cases op <;> rfl

theorem opcodeOf_pack : opcodeOf Config.reference (pack mid hi rs2 rs1 lo rd op i) = op := by
  rw [opcodeOf, extract_pack_op, ofBits_bits]

end Pack

/-! ## Numbers and names of functions -/

theorem aluOp_ofFunct (op : AluOp) : AluOp.ofFunct Config.reference (op.funct.setWidth 13) = some op := by cases op <;> rfl

theorem aluOp_ofFunct_wide (op : AluOp) : AluOp.ofFunct Config.reference ((0 : BitVec 5) ++ (0 : BitVec 3) ++ op.funct) = some op := by
  cases op <;> rfl

theorem loadOp_ofFunct (op : LoadOp) : LoadOp.ofFunct (op.funct.setWidth 13) = some op := by cases op <;> rfl

theorem storeOp_ofFunct (op : StoreOp) : StoreOp.ofFunct (op.funct.setWidth 13) = some op := by cases op <;> rfl

/-! ## Immediates put together again -/

theorem concat_immA (v : Word) :
    v.extractLsb' 10 3 ++ v.extractLsb' 5 5 ++ v.extractLsb' 0 5 = v.extractLsb' 0 13 := by
  apply BitVec.eq_of_getLsbD_eq; intro j hj
  simp only [BitVec.getLsbD_extractLsb', BitVec.getLsbD_append]
  split_ifs <;>
    (rw [decide_eq_true (by omega), decide_eq_true (by omega)] <;> simp only [Bool.true_and] <;> (congr 1; omega))

/-- A value in the 13-bit range is its own low 13 bits sign-extended (30_encoding.md R113). -/
theorem sext_of_fitsSigned13 (v : Word) (h : fitsSigned13 v = true) : sext (v.extractLsb' 0 13) = v := by
  simp only [fitsSigned13, decide_eq_true_eq] at h
  apply BitVec.eq_of_toInt_eq
  unfold sext
  rw [BitVec.toInt_signExtend_of_le (by omega), ← BitVec.setWidth_eq_extractLsb' (by omega), BitVec.toInt_setWidth]
  rw [BitVec.toInt_eq_toNat_bmod] at h ⊢
  simp only [Int.bmod] at *
  omega

/-- The sign-extension of a 13-bit field is in range (30_encoding.md R113). -/
theorem fitsSigned13_sext (f : BitVec 13) : fitsSigned13 (sext f) = true := by
  simp only [fitsSigned13, decide_eq_true_eq]
  unfold sext
  rw [BitVec.toInt_signExtend_of_le (by omega)]
  have := BitVec.toInt_lt (x := f)
  have := BitVec.le_toInt f
  simp only [Nat.reduceSub, Int.reducePow] at *
  omega

theorem zext_of_fitsIo5 (v : Word) (h : fitsIo5 v = true) : zext (v.extractLsb' 0 5) = v := by
  simp only [fitsIo5, decide_eq_true_eq] at h
  apply BitVec.eq_of_toNat_eq
  simp only [zext, BitVec.toNat_setWidth, BitVec.extractLsb'_toNat, Nat.shiftRight_zero]
  omega

end Sys2Proof
end

