-- ==== Sys2Proof/Laws/State.lean ====
section
/-! SUPPORT. One lemma per field per update of the state, and what a selector reads after a write, a call and a return. -/

namespace Sys2Proof.Machine

/-! ## Slots and selectors -/

theorem RegFile.getSlot_setSlot (f : RegFile) (p q : Slot) (v : Word) :
    (f.setSlot p v).getSlot q = if q = p then v else f.getSlot q := by
  cases p <;> cases q <;>
    simp [RegFile.getSlot, RegFile.setSlot, Vector.getElem_set, Fin.ext_iff, eq_comm]

/-- Two selectors never name one slot (10_state.md R24). -/
theorem slotOf_injective : ∀ r q : Reg, slotOf r = slotOf q → r = q := by decide

theorem slotOf_eq_iff (r q : Reg) : slotOf r = slotOf q ↔ r = q :=
  ⟨slotOf_injective r q, fun h => h ▸ rfl⟩

@[simp] theorem RegFile.read_zero (f : RegFile) : f.read 0 = 0 := rfl

/-- What selector q reads after selector r is written (R24, R25, R26). -/
theorem RegFile.read_write (f : RegFile) (r q : Reg) (v : Word) :
    (f.write r v).read q = if q = 0 then 0 else if q = r then v else f.read q := by
  by_cases hq : q = 0
  · simp [RegFile.read, hq]
  · simp only [RegFile.read, RegFile.write, RegFile.getSlot_setSlot, slotOf_eq_iff, hq, if_false]

/-! ## Fields a register write keeps -/

@[simp] theorem RegFile.write_below (f : RegFile) (r : Reg) (v : Word) : (f.write r v).below = f.below := by
  unfold RegFile.write; cases slotOf r <;> rfl

@[simp] theorem RegFile.write_top_locals (f : RegFile) (r : Reg) (v : Word) :
    (f.write r v).top.locals = f.top.locals := by
  unfold RegFile.write; cases slotOf r <;> rfl

@[simp] theorem RegFile.write_depth (f : RegFile) (r : Reg) (v : Word) : (f.write r v).depth = f.depth := by
  simp [RegFile.depth]

@[simp] theorem State.setReg_regs (s : State) (r : Reg) (v : Word) : (s.setReg r v).regs = s.regs.write r v := rfl
@[simp] theorem State.setReg_mem (s : State) (r : Reg) (v : Word) : (s.setReg r v).mem = s.mem := rfl
@[simp] theorem State.setReg_io (s : State) (r : Reg) (v : Word) : (s.setReg r v).io = s.io := rfl
@[simp] theorem State.setReg_cfg (s : State) (r : Reg) (v : Word) : (s.setReg r v).cfg = s.cfg := rfl
@[simp] theorem State.setPc_regs (s : State) (t : Word) : (s.setPc t).regs = s.regs.write 2 t := rfl
@[simp] theorem State.setPc_mem (s : State) (t : Word) : (s.setPc t).mem = s.mem := rfl
@[simp] theorem State.setPc_io (s : State) (t : Word) : (s.setPc t).io = s.io := rfl
@[simp] theorem State.setPc_cfg (s : State) (t : Word) : (s.setPc t).cfg = s.cfg := rfl

/-- What selector q reads after `x[r] <- v`. -/
theorem State.reg_setReg (s : State) (r q : Reg) (v : Word) :
    (s.setReg r v).reg q = if q = 0 then 0 else if q = r then v else s.reg q :=
  RegFile.read_write s.regs r q v

/-- What selector q reads after `pc <- t`. -/
theorem State.reg_setPc (s : State) (q : Reg) (t : Word) :
    (s.setPc t).reg q = if q = 2 then t else s.reg q := by
  rw [State.setPc, State.reg_setReg]
  by_cases h2 : q = 2
  · subst h2; rfl
  · by_cases h0 : q = 0
    · subst h0; rfl
    · rw [if_neg h0]

@[simp] theorem State.pc_setPc (s : State) (t : Word) : (s.setPc t).pc = t := by
  simp [State.pc, State.reg_setPc]

/-! ## Calls and returns (R28, R29) -/

@[simp] theorem RegFile.call_globals (f : RegFile) : f.call.globals = f.globals := rfl
@[simp] theorem RegFile.call_top (f : RegFile) : f.call.top = Frame.zero := rfl
@[simp] theorem RegFile.call_second (f : RegFile) : f.call.second = f.top := rfl
@[simp] theorem RegFile.call_below (f : RegFile) : f.call.below = f.second :: f.below := rfl
@[simp] theorem RegFile.call_depth (f : RegFile) : f.call.depth = f.depth + 1 := rfl

/-- A return pops exactly when a third frame is there, and moves the window down (R29). -/
theorem RegFile.ret_eq_some_iff (f g : RegFile) :
    f.ret = some g ↔
      g.globals = f.globals ∧ g.top = f.second ∧ f.below = g.second :: g.below := by
  cases f with
  | mk gl top second below =>
    cases g with
    | mk gl' top' second' below' =>
      cases below with
      | nil => simp [RegFile.ret]
      | cons x xs =>
        simp only [RegFile.ret, Option.some.injEq, RegFile.mk.injEq, List.cons.injEq]
        constructor <;> rintro ⟨rfl, rfl, rfl, rfl⟩ <;> exact ⟨rfl, rfl, rfl, rfl⟩

theorem RegFile.ret_eq_none_iff (f : RegFile) : f.ret = none ↔ f.below = [] := by
  cases f with
  | mk gl top second below => cases below <;> simp [RegFile.ret]

/-! ## Fields of reset -/

@[simp] theorem State.reset_cfg : State.reset.cfg = Config.reference := rfl
@[simp] theorem State.reset_depth : State.reset.regs.depth = 2 := rfl

end Sys2Proof.Machine
end

