-- ==== Sys2Proof/Laws/Memory.lean ====
section
/-! SUPPORT. What a byte reads after each memory operation, what each access can answer, and that every memory operation keeps
the canonical form `Memory.wf`. -/

namespace Sys2Proof.Machine

/-! ## The cell list -/

theorem cellsGet_filter_ne (l : List Host.Cell) (a b : Nat) (h : b ≠ a) :
    cellsGet (l.filter (fun c => c.1 ≠ a)) b = cellsGet l b := by
  induction l with
  | nil => rfl
  | cons c t ih =>
    obtain ⟨k, v⟩ := c
    by_cases hk : k = a
    · have : k ≠ b := fun e => h (e ▸ hk)
      simp only [List.filter, hk, ne_eq, not_true, decide_false]
      rw [ih, ← hk]; simp [cellsGet, this]
    · simp only [List.filter, ne_eq, hk, not_false_eq_true, decide_true]
      simp only [cellsGet]; split
      · rfl
      · exact ih

theorem cellsGet_filter_self (l : List Host.Cell) (a : Nat) :
    cellsGet (l.filter (fun c => c.1 ≠ a)) a = Memory.unlisted := by
  induction l with
  | nil => rfl
  | cons c t ih =>
    obtain ⟨k, v⟩ := c
    by_cases hk : k = a
    · simpa [List.filter, hk] using ih
    · simpa [List.filter, hk, cellsGet] using ih

theorem cellsGet_insert_self (l : List Host.Cell) (a : Nat) (v : Byte) (h : ∀ c ∈ l, c.1 ≠ a) :
    cellsGet (cellsInsert l a v) a = v := by
  induction l with
  | nil => simp [cellsInsert, cellsGet]
  | cons c t ih =>
    obtain ⟨k, w⟩ := c
    have hk : k ≠ a := h (k, w) (by simp)
    simp only [cellsInsert]
    split
    · simp [cellsGet]
    · simp only [cellsGet, hk, if_false]
      exact ih (fun c hc => h c (by simp [hc]))

theorem cellsGet_insert_ne (l : List Host.Cell) (a b : Nat) (v : Byte) (h : b ≠ a) :
    cellsGet (cellsInsert l a v) b = cellsGet l b := by
  induction l with
  | nil => simp [cellsInsert, cellsGet, h.symm]
  | cons c t ih =>
    obtain ⟨k, w⟩ := c
    simp only [cellsInsert]
    split
    · simp only [cellsGet, h.symm, if_false]
    · simp only [cellsGet]; split
      · rfl
      · exact ih

/-- A byte read after a byte is written, in any list. -/
theorem cellsGet_set (l : List Host.Cell) (a b : Nat) (v : Byte) :
    cellsGet (cellsSet l a v) b = if b = a then v else cellsGet l b := by
  by_cases h : b = a
  · subst h
    simp only [cellsSet, if_true]
    split
    · next hv => rw [cellsGet_filter_self, hv]
    · refine cellsGet_insert_self _ _ _ (fun c hc => ?_)
      simpa using (List.mem_filter.mp hc).2
  · simp only [cellsSet, h, if_false]
    split
    · exact cellsGet_filter_ne l a b h
    · rw [cellsGet_insert_ne _ _ _ _ h, cellsGet_filter_ne l a b h]

theorem mem_cellsInsert (l : List Host.Cell) (a : Nat) (v : Byte) (c : Host.Cell) :
    c ∈ cellsInsert l a v ↔ c = (a, v) ∨ c ∈ l := by
  induction l with
  | nil => simp [cellsInsert]
  | cons d t ih =>
    obtain ⟨k, w⟩ := d
    simp only [cellsInsert]
    split
    · simp
    · simp only [List.mem_cons, ih]; tauto

theorem cellsInsert_rising (l : List Host.Cell) (a : Nat) (v : Byte)
    (hl : l.Pairwise (fun c d => c.1 < d.1)) (ha : ∀ c ∈ l, c.1 ≠ a) :
    (cellsInsert l a v).Pairwise (fun c d => c.1 < d.1) := by
  induction l with
  | nil => simp [cellsInsert]
  | cons d t ih =>
    obtain ⟨k, w⟩ := d
    have hk : k ≠ a := ha (k, w) (by simp)
    rw [List.pairwise_cons] at hl
    simp only [cellsInsert]
    split
    · next hlt =>
      refine List.pairwise_cons.mpr ⟨fun c hc => ?_, List.pairwise_cons.mpr hl⟩
      rcases List.mem_cons.mp hc with rfl | hc
      · exact hlt
      · exact Nat.lt_trans hlt (hl.1 c hc)
    · next hge =>
      refine List.pairwise_cons.mpr ⟨fun c hc => ?_, ih hl.2 (fun c hc => ha c (by simp [hc]))⟩
      rcases (mem_cellsInsert t a v c).mp hc with rfl | hc
      · show k < a; omega
      · exact hl.1 c hc

theorem cellsSet_rising (l : List Host.Cell) (a : Nat) (v : Byte) (hl : l.Pairwise (fun c d => c.1 < d.1)) :
    (cellsSet l a v).Pairwise (fun c d => c.1 < d.1) := by
  have hf : (l.filter (fun c => c.1 ≠ a)).Pairwise (fun c d => c.1 < d.1) := hl.filter _
  simp only [cellsSet]
  split
  · exact hf
  · exact cellsInsert_rising _ _ _ hf (fun c hc => by simpa using (List.mem_filter.mp hc).2)

/-- What is listed after a byte is written. -/
theorem mem_cellsSet (l : List Host.Cell) (a : Nat) (v : Byte) (c : Host.Cell) (h : c ∈ cellsSet l a v) :
    (c = (a, v) ∧ v ≠ Memory.unlisted) ∨ c ∈ l := by
  simp only [cellsSet] at h
  split at h
  · exact .inr (List.mem_filter.mp h).1
  · next hv =>
    rcases (mem_cellsInsert _ _ _ _).mp h with h | h
    · exact .inl ⟨h, hv⟩
    · exact .inr (List.mem_filter.mp h).1

/-! ## Block keys -/

theorem mem_insertKey (l : List Nat) (k j : Nat) : j ∈ insertKey l k ↔ j = k ∨ j ∈ l := by
  induction l with
  | nil => simp [insertKey]
  | cons x t ih =>
    simp only [insertKey]
    split
    · simp
    · split
      · next h => simp [h]
      · simp only [List.mem_cons, ih]; tauto

theorem insertKey_rising (l : List Nat) (k : Nat) (hl : l.Pairwise (fun i j => i < j)) :
    (insertKey l k).Pairwise (fun i j => i < j) := by
  induction l with
  | nil => simp [insertKey]
  | cons x t ih =>
    rw [List.pairwise_cons] at hl
    simp only [insertKey]
    split
    · next hlt =>
      refine List.pairwise_cons.mpr ⟨fun j hj => ?_, List.pairwise_cons.mpr hl⟩
      rcases List.mem_cons.mp hj with rfl | hj
      · exact hlt
      · exact Nat.lt_trans hlt (hl.1 j hj)
    · split
      · exact List.pairwise_cons.mpr hl
      · refine List.pairwise_cons.mpr ⟨fun j hj => ?_, ih hl.2⟩
        rcases (mem_insertKey t k j).mp hj with rfl | hj
        · omega
        · exact hl.1 j hj

/-! ## One byte, one field at a time -/

theorem Memory.byteAt_setByte (m : Memory) (a b : Nat) (v : Byte) :
    (m.setByte a v).byteAt b = if b = a then v else m.byteAt b :=
  cellsGet_set m.cells a b v

@[simp] theorem Memory.setByte_backend (m : Memory) (a : Nat) (v : Byte) : (m.setByte a v).backend = m.backend := rfl
@[simp] theorem Memory.setByte_blocks (m : Memory) (a : Nat) (v : Byte) : (m.setByte a v).blocks = m.blocks := rfl

@[simp] theorem Memory.putValue_backend (m : Memory) (w : Width) (a : Nat) (v : Word) :
    (m.putValue w a v).backend = m.backend := by cases w <;> rfl
@[simp] theorem Memory.putValue_blocks (m : Memory) (w : Width) (a : Nat) (v : Word) :
    (m.putValue w a v).blocks = m.blocks := by cases w <;> rfl

@[simp] theorem Memory.allocate_backend (m : Memory) (a : Nat) : (m.allocate a).backend = m.backend := by
  unfold Memory.allocate; split <;> simp_all
@[simp] theorem Memory.allocate_cells (m : Memory) (a : Nat) : (m.allocate a).cells = m.cells := by
  unfold Memory.allocate; split <;> rfl
@[simp] theorem Memory.byteAt_allocate (m : Memory) (a b : Nat) : (m.allocate a).byteAt b = m.byteAt b := by
  simp [Memory.byteAt]

/-- The blocks after a block is allocated: none in flat memory, else one more (R64). -/
theorem Memory.mem_blocks_allocate (m : Memory) (a k : Nat) :
    k ∈ (m.allocate a).blocks ↔
      k ∈ m.blocks ∨ ((∀ size, m.backend ≠ .flat size) ∧ k = blockKey a) := by
  unfold Memory.allocate
  split <;> simp_all [mem_insertKey, or_comm]

/-- The byte k of a value, k from 0 for the least significant (R54). -/
theorem Memory.byteAt_putValue (m : Memory) (w : Width) (a b : Nat) (v : Word) :
    (m.putValue w a v).byteAt b =
      if a ≤ b ∧ b < a + w.bytes then v.extractLsb' (8 * (b - a)) 8 else m.byteAt b := by
  cases w
  · simp only [Memory.putValue, Memory.byteAt_setByte, extract]
    by_cases h : b = a
    · subst h; simp [Width.bytes]
    · rw [if_neg h, if_neg (by simp only [Width.bytes]; omega)]
  · simp only [Memory.putValue, Memory.byteAt_setByte, extract]
    by_cases h1 : b = a + 1
    · subst h1; simp [Width.bytes]
    · by_cases h : b = a
      · subst h; simp [Width.bytes]
      · rw [if_neg h1, if_neg h, if_neg (by simp only [Width.bytes]; omega)]
  · simp only [Memory.putValue, Memory.byteAt_setByte, extract]
    by_cases h3 : b = a + 3
    · subst h3; simp [Width.bytes]
    · by_cases h2 : b = a + 2
      · subst h2; simp [Width.bytes]
      · by_cases h1 : b = a + 1
        · subst h1; simp [Width.bytes]
        · by_cases h : b = a
          · subst h; simp [Width.bytes]
          · rw [if_neg h3, if_neg h2, if_neg h1, if_neg h, if_neg (by simp only [Width.bytes]; omega)]

/-! ## Small facts of the checks -/

theorem Width.aligned_iff (w : Width) (a : Nat) : w.aligned a = true ↔ a % w.bytes = 0 := by
  simp [Width.aligned]

theorem Memory.hasBlock_iff (m : Memory) (a : Nat) : m.hasBlock a = true ↔ blockKey a ∈ m.blocks := by
  simp [Memory.hasBlock]

/-- What a backend holds, case by case. -/
theorem Memory.holds_iff (m : Memory) (a : Nat) :
    m.holds a = true ↔
      match m.backend with
      | .flat size => a < size
      | .sparse => blockKey a ∈ m.blocks
      | .split len => a < len ∨ blockKey a ∈ m.blocks := by
  cases m with
  | mk backend cells blocks => cases backend <;> simp [Memory.holds, Memory.hasBlock_iff]

/-! ## What an access can answer -/

/-- A read answers the little-endian value exactly when nothing makes it fail. -/
theorem Memory.read_eq_ok_iff (m : Memory) (w : Width) (a v : Word) :
    m.read w a = .ok v ↔ m.readError w a.toNat = none ∧ v = m.valueAt w a.toNat := by
  unfold Memory.read
  cases m.readError w a.toNat <;> simp
  exact eq_comm

theorem Memory.read_eq_error_iff (m : Memory) (w : Width) (a : Word) (e : MemError) :
    m.read w a = .error e ↔ m.readError w a.toNat = some e := by
  unfold Memory.read
  split <;> simp_all

/-- A write answers the stored memory exactly when nothing makes it fail. -/
theorem Memory.write_eq_ok_iff (m m' : Memory) (p : ImageWrites) (w : Width) (a v : Word) :
    m.write p w a v = .ok m' ↔ m.writeError p w a.toNat = none ∧ m' = m.store w a.toNat v := by
  unfold Memory.write
  cases m.writeError p w a.toNat <;> simp
  exact eq_comm

theorem Memory.write_eq_error_iff (m : Memory) (p : ImageWrites) (w : Width) (a v : Word) (e : MemError) :
    m.write p w a v = .error e ↔ m.writeError p w a.toNat = some e := by
  unfold Memory.write
  split <;> simp_all

/-- Being in the image, as a fact about the backend (R66). -/
theorem Memory.inImage_iff (m : Memory) (a : Nat) : m.inImage a = true ↔ ∃ len, m.backend = .split len ∧ a < len := by
  unfold Memory.inImage
  cases m.backend <;> simp

/-- Everything a store can be: nothing at all in the image, else the block allocated and the bytes stored. -/
theorem Memory.store_cases (m : Memory) (w : Width) (a : Nat) (v : Word) :
    (m.inImage a = true ∧ m.store w a v = m) ∨
    (m.inImage a = false ∧ m.store w a v = (m.allocate a).putValue w a v) := by
  unfold Memory.store
  cases m.inImage a <;> simp

/-- An aligned access ends inside the 4096-byte block it begins in (R65). -/
theorem aligned_same_block (w : Width) (a k : Nat) (h : w.aligned a = true) (hk : k < w.bytes) :
    blockKey (a + k) = blockKey a := by
  rw [Width.aligned_iff] at h
  unfold blockKey
  cases w <;> simp only [Width.bytes] at h hk <;> omega

/-! ## The canonical form -/

theorem Memory.setByte_wf (m : Memory) (a : Nat) (v : Byte) (h : m.wf) (ha : m.holds a) : (m.setByte a v).wf := by
  obtain ⟨h1, h2, h3, h4, h5⟩ := h
  refine ⟨cellsSet_rising _ _ _ h1, fun c hc => ?_, h3, h4, h5⟩
  rcases mem_cellsSet _ _ _ _ hc with ⟨rfl, hv⟩ | hc
  · exact ⟨hv, ha⟩
  · exact h2 c hc

theorem Memory.putValue_wf (m : Memory) (w : Width) (a : Nat) (v : Word) (h : m.wf)
    (ha : ∀ k, k < w.bytes → m.holds (a + k)) : (m.putValue w a v).wf := by
  have h0 : m.holds a := by simpa using ha 0 (by cases w <;> decide)
  cases w
  · exact Memory.setByte_wf _ _ _ h h0
  · exact Memory.setByte_wf _ _ _ (Memory.setByte_wf _ _ _ h h0) (ha 1 (by decide))
  · exact Memory.setByte_wf _ _ _ (Memory.setByte_wf _ _ _ (Memory.setByte_wf _ _ _ (Memory.setByte_wf _ _ _ h h0)
      (ha 1 (by decide))) (ha 2 (by decide))) (ha 3 (by decide))

theorem Memory.holds_allocate (m : Memory) (a b : Nat) (h : m.holds b) : (m.allocate a).holds b := by
  cases m with
  | mk backend cells blocks =>
    cases backend <;>
      simp only [Memory.holds_iff, Memory.allocate, mem_insertKey] at h ⊢ <;> tauto

theorem Memory.allocate_wf (m : Memory) (a : Nat) (h : m.wf) (ha : a < 2 ^ 32)
    (hs : ∀ len, m.backend = .split len → len < (blockKey a + 1) * 4096) : (m.allocate a).wf := by
  obtain ⟨h1, h2, h3, h4, h5⟩ := h
  have hk : blockKey a < 1048576 := by unfold blockKey; omega
  refine ⟨by simpa using h1, fun c hc => ?_, ?_, fun k hkm => ?_, by simpa using h5⟩
  · have := h2 c (by simpa using hc)
    exact ⟨this.1, Memory.holds_allocate m a c.1 this.2⟩
  · unfold Memory.allocate; split
    · exact h3
    · exact insertKey_rising _ _ h3
    · exact insertKey_rising _ _ h3
  · rcases (Memory.mem_blocks_allocate m a k).mp hkm with hkm | ⟨hf, rfl⟩
    · have := h4 k hkm
      simpa only [Memory.blockFits, Memory.allocate_backend] using this
    · cases hb : m.backend with
      | flat size => exact absurd hb (hf size)
      | sparse => simpa [Memory.blockFits, hb] using hk
      | split len => simpa [Memory.blockFits, hb] using ⟨hk, hs len hb⟩

/-- Every byte of an aligned access that a write may touch is held once its block is allocated. -/
theorem Memory.holds_of_writeError (m : Memory) (p : ImageWrites) (w : Width) (a k : Nat)
    (h : m.writeError p w a = none) (hk : k < w.bytes) : (m.allocate a).holds (a + k) := by
  unfold Memory.writeError at h
  split at h
  · next hal =>
    have hbk := aligned_same_block w a k hal hk
    cases m with
    | mk backend cells blocks =>
      cases backend with
      | flat size =>
        simp only [Memory.holds_iff, Memory.allocate] at h ⊢
        split at h
        · omega
        · cases h
      | sparse => simp [Memory.holds_iff, Memory.allocate, mem_insertKey, hbk]
      | split len => simp [Memory.holds_iff, Memory.allocate, mem_insertKey, hbk]
  · cases h

/-- A write keeps the canonical form. -/
theorem Memory.write_wf (m m' : Memory) (p : ImageWrites) (w : Width) (a v : Word) (h : m.wf)
    (hw : m.write p w a v = .ok m') : m'.wf := by
  obtain ⟨he, rfl⟩ := (Memory.write_eq_ok_iff m m' p w a v).mp hw
  rcases Memory.store_cases m w a.toNat v with ⟨-, e⟩ | ⟨hi, e⟩ <;> rw [e]
  · exact h
  refine Memory.putValue_wf _ _ _ _ (Memory.allocate_wf m a.toNat h a.isLt ?_)
    (fun k hk => Memory.holds_of_writeError m p w a.toNat k he hk)
  intro len hb
  have hge : ¬ a.toNat < len := by simpa [Memory.inImage, hb] using hi
  have : a.toNat < (blockKey a.toNat + 1) * 4096 := by unfold blockKey; omega
  omega

/-- A device's writes keep the canonical form. -/
theorem applyWrites_wf (p : ImageWrites) (ws : List IoWrite) (m m' : Memory) (h : m.wf)
    (hw : applyWrites p ws m = .ok m') : m'.wf := by
  induction ws generalizing m with
  | nil => simp only [applyWrites, Except.ok.injEq] at hw; exact hw ▸ h
  | cons x xs ih =>
    simp only [applyWrites] at hw
    split at hw
    · cases hw
    · next m1 h1 => exact ih m1 (Memory.write_wf m m1 _ _ _ _ h h1) hw

/-- A write changes neither the backend nor, in split memory, a byte of the image (R66, R68). -/
theorem Memory.write_backend (m m' : Memory) (p : ImageWrites) (w : Width) (a v : Word)
    (hw : m.write p w a v = .ok m') : m'.backend = m.backend := by
  obtain ⟨-, rfl⟩ := (Memory.write_eq_ok_iff m m' p w a v).mp hw
  rcases Memory.store_cases m w a.toNat v with ⟨-, e⟩ | ⟨-, e⟩ <;> simp [e]

theorem Memory.write_image (m m' : Memory) (p : ImageWrites) (w : Width) (a v : Word) (len x : Nat)
    (hb : m.backend = .split len) (hx : x < len) (hw : m.write p w a v = .ok m') : m'.byteAt x = m.byteAt x := by
  obtain ⟨-, rfl⟩ := (Memory.write_eq_ok_iff m m' p w a v).mp hw
  rcases Memory.store_cases m w a.toNat v with ⟨-, e⟩ | ⟨hi, e⟩ <;> rw [e]
  have : ¬ a.toNat < len := by simpa [Memory.inImage, hb] using hi
  rw [Memory.byteAt_putValue, if_neg (by omega), Memory.byteAt_allocate]

/-- Placing a word keeps the canonical form, at an address of a word in the address space. -/
theorem Memory.place_wf (m : Memory) (a : Nat) (w : Word) (h : m.wf) (ha : a < 2 ^ 32) (hal : a % 4 = 0) :
    (m.place a w).wf := by
  have hword : Width.word.aligned a = true := by simp [Width.aligned, Width.bytes, hal]
  have hself : a < (blockKey a + 1) * 4096 := by unfold blockKey; omega
  cases m with
  | mk backend cells blocks =>
    cases backend with
    | flat size =>
      simp only [Memory.place]
      refine Memory.putValue_wf _ _ _ _ ?_ (fun k hk => ?_)
      · obtain ⟨h1, h2, h3, h4, h5⟩ := h
        refine ⟨h1, fun c hc => ⟨(h2 c hc).1, ?_⟩, h3, h4, rfl⟩
        have := (h2 c hc).2
        simp only [Memory.holds_iff] at this ⊢; omega
      · simp only [Memory.holds_iff, Width.bytes] at hk ⊢; omega
    | sparse =>
      simp only [Memory.place]
      refine Memory.putValue_wf _ _ _ _ (Memory.allocate_wf _ _ h ha (fun len hb => by cases hb)) (fun k hk => ?_)
      simp [Memory.holds_iff, Memory.allocate, mem_insertKey, aligned_same_block .word a k hword hk]
    | split len =>
      simp only [Memory.place]
      split
      · next hlt =>
        refine Memory.putValue_wf _ _ _ _ h (fun k hk => ?_)
        have h4 : len % 4 = 0 := of_decide_eq_true h.2.2.2.2
        simp only [Memory.holds_iff, Width.bytes] at hk ⊢; omega
      · next hge =>
        refine Memory.putValue_wf _ _ _ _ (Memory.allocate_wf _ _ h ha (fun l hb => ?_)) (fun k hk => ?_)
        · cases hb; omega
        · simp [Memory.holds_iff, Memory.allocate, mem_insertKey, aligned_same_block .word a k hword hk]

theorem imageCells_mem (bs : List Byte) (a : Nat) (c : Host.Cell) (h : c ∈ imageCells a bs) :
    c.2 ≠ Memory.unlisted ∧ a ≤ c.1 ∧ c.1 < a + bs.length := by
  induction bs generalizing a with
  | nil => simp [imageCells] at h
  | cons b t ih =>
    simp only [imageCells] at h
    split at h
    · have := ih (a + 1) h
      simp only [List.length_cons]; exact ⟨this.1, by omega, by omega⟩
    · next hb =>
      rcases List.mem_cons.mp h with rfl | h
      · simp only [List.length_cons]; exact ⟨hb, by omega, by omega⟩
      · have := ih (a + 1) h
        simp only [List.length_cons]; exact ⟨this.1, by omega, by omega⟩

theorem imageCells_rising (bs : List Byte) (a : Nat) : (imageCells a bs).Pairwise (fun c d => c.1 < d.1) := by
  induction bs generalizing a with
  | nil => simp [imageCells]
  | cons b t ih =>
    simp only [imageCells]
    split
    · exact ih (a + 1)
    · refine List.pairwise_cons.mpr ⟨fun c hc => ?_, ih (a + 1)⟩
      have := (imageCells_mem t (a + 1) c hc).2.1
      show a < c.1; omega

/-- An image reads back byte by byte. -/
theorem cellsGet_imageCells (bs : List Byte) (a k : Nat) :
    cellsGet (imageCells a bs) (a + k) = bs.getD k Memory.unlisted := by
  induction bs generalizing a k with
  | nil => simp [imageCells, cellsGet]
  | cons b t ih =>
    have miss : ∀ l : List Host.Cell, (∀ c ∈ l, a < c.1) → cellsGet l a = Memory.unlisted := by
      intro l hl
      induction l with
      | nil => rfl
      | cons c l ihl =>
        obtain ⟨j, v⟩ := c
        have : j ≠ a := by have := hl (j, v) (by simp); simp only at this; omega
        simp only [cellsGet, this, if_false]
        exact ihl (fun c hc => hl c (by simp [hc]))
    cases k with
    | zero =>
      simp only [imageCells, Nat.add_zero, List.getD_cons_zero]
      split
      · next hb =>
        rw [miss _ (fun c hc => (imageCells_mem t (a + 1) c hc).2.1), hb]
      · simp [cellsGet]
    | succ k =>
      simp only [imageCells, List.getD_cons_succ]
      have e : a + (k + 1) = (a + 1) + k := by omega
      split
      · rw [e, ih]
      · have : a ≠ (a + 1) + k := by omega
        rw [e]; simp only [cellsGet, this, if_false]; exact ih (a + 1) k

/-- A new memory is canonical. -/
theorem constructMemory_wf (arg : BackendArg) (m : Memory) (h : constructMemory arg = .ok m) : m.wf := by
  cases arg with
  | flat size => cases h; refine ⟨List.Pairwise.nil, by simp, List.Pairwise.nil, by simp, rfl⟩
  | sparse => cases h; refine ⟨List.Pairwise.nil, by simp, List.Pairwise.nil, by simp, rfl⟩
  | split image =>
    simp only [constructMemory] at h
    split at h
    · next hl =>
      cases h
      refine ⟨imageCells_rising image 0, fun c hc => ?_, List.Pairwise.nil, by simp, decide_eq_true hl⟩
      have := imageCells_mem image 0 c hc
      exact ⟨this.1, (Memory.holds_iff _ _).mpr (.inl (by simpa using this.2.2))⟩
    · cases h

/-- Reset's memory is canonical. -/
theorem reset_memory_wf : State.reset.mem.wf := by decide

end Sys2Proof.Machine
end

