-- ==== Sys2Proof/Laws/Ops.lean ====
section
/-! SUPPORT. What each shared operation of the machine can do, said once: the writeback of each outcome, the window operations,
the I/O device, and which unit each decoded instruction runs. Later proofs cite these instead of unfolding the operations. -/

namespace Sys2Proof.Machine

/-! ## Windows -/

/-- A push answers exactly when the bound of a bounded stack is not reached (10_state.md R28, R32). -/
theorem State.pushWindow_eq_ok_iff (s t : State) :
    s.pushWindow = .ok t ↔
      (∀ n, s.cfg.windowDepthMax = some n → s.regs.depth < n) ∧ t = { s with regs := s.regs.call } := by
  unfold State.pushWindow
  cases hb : s.cfg.windowDepthMax with
  | none => simp [eq_comm]
  | some n =>
    by_cases hn : n ≤ s.regs.depth
    · simp [hn, Nat.not_lt.mpr hn]
    · simp [hn, Nat.not_le.mp hn, eq_comm]

theorem State.pushWindow_eq_error_iff (s : State) (f : Fault) :
    s.pushWindow = .error f ↔
      (∃ n, s.cfg.windowDepthMax = some n ∧ n ≤ s.regs.depth) ∧ f = .windowOverflow := by
  unfold State.pushWindow
  cases hb : s.cfg.windowDepthMax with
  | none => simp
  | some n =>
    by_cases hn : n ≤ s.regs.depth
    · simp [hn, eq_comm]
    · simp [hn]

/-- A pop answers exactly when a third frame is there (10_state.md R29, R406). -/
theorem State.popWindow_eq_ok_iff (s t : State) :
    s.popWindow = .ok t ↔ ∃ g, s.regs.ret = some g ∧ t = { s with regs := g } := by
  unfold State.popWindow
  cases h : s.regs.ret <;> simp [eq_comm]

theorem State.popWindow_eq_error_iff (s : State) (f : Fault) :
    s.popWindow = .error f ↔ s.regs.below = [] ∧ f = .windowUnderflow := by
  unfold State.popWindow
  rw [← RegFile.ret_eq_none_iff]
  cases h : s.regs.ret <;> simp [eq_comm]

/-! ## Writeback (40_cycle.md R158 to R161) -/

theorem writeback_value (v : Word) (rd : Reg) (s : State) :
    writeback (.value v) rd s = .next ((s.setPc (s.pc + pcStepOf s.cfg)).setReg rd v) := rfl

theorem writeback_skip (v : Word) (rd : Reg) (s : State) :
    writeback (.skip v) rd s =
      .next ((s.setPc (if v = 0 then s.pc + pcStepOf s.cfg else s.pc + 2 * pcStepOf s.cfg)).setReg rd v) := rfl

theorem writeback_nothing (rd : Reg) (s : State) :
    writeback .nothing rd s = .next (s.setPc (s.pc + pcStepOf s.cfg)) := rfl

theorem writeback_call (link target : Word) (rd : Reg) (s : State)
    (h : ∀ n, s.cfg.windowDepthMax = some n → s.regs.depth < n) :
    writeback (.call link target) rd s =
      .next ((({ s with regs := s.regs.call } : State).setPc target).setReg rd link) := by
  simp only [writeback, windowUpdate, (State.pushWindow_eq_ok_iff s _).mpr ⟨h, rfl⟩, rdWrite, nextPc]

theorem writeback_call_overflow (link target : Word) (rd : Reg) (s : State) (n : Nat)
    (hn : s.cfg.windowDepthMax = some n) (h : n ≤ s.regs.depth) :
    writeback (.call link target) rd s = .fault .windowOverflow := by
  simp only [writeback, windowUpdate, (State.pushWindow_eq_error_iff s _).mpr ⟨⟨n, hn, h⟩, rfl⟩, raise]

theorem writeback_ret (cont : Word) (rd : Reg) (s : State) (g : RegFile) (h : s.regs.ret = some g) :
    writeback (.ret cont) rd s =
      .next (({ s with regs := g } : State).setPc (cont + pcStepOf s.cfg)) := by
  simp only [writeback, windowUpdate, (State.popWindow_eq_ok_iff s _).mpr ⟨g, h, rfl⟩, rdWrite, nextPc]

theorem writeback_ret_underflow (cont : Word) (rd : Reg) (s : State) (h : s.regs.below = []) :
    writeback (.ret cont) rd s = .fault .windowUnderflow := by
  simp only [writeback, windowUpdate, (State.popWindow_eq_error_iff s _).mpr ⟨h, rfl⟩, raise]

/-- Writeback never refuses. -/
theorem writeback_not_refused (out : ExecOut) (rd : Reg) (s : State) (r : Refusal) :
    writeback out rd s ≠ .refused r := by
  unfold writeback
  split <;> simp [raise]

/-- Writeback touches the register file only (R157, R160). -/
theorem writeback_keeps (out : ExecOut) (rd : Reg) (s t : State) (h : writeback out rd s = .next t) :
    t.mem = s.mem ∧ t.io = s.io ∧ t.cfg = s.cfg := by
  unfold writeback at h
  split at h
  · cases h
  · next u hu =>
    have hk : u.mem = s.mem ∧ u.io = s.io ∧ u.cfg = s.cfg := by
      cases out <;> simp only [windowUpdate, Except.ok.injEq] at hu
      · exact hu ▸ ⟨rfl, rfl, rfl⟩
      · exact hu ▸ ⟨rfl, rfl, rfl⟩
      · exact hu ▸ ⟨rfl, rfl, rfl⟩
      · rw [State.pushWindow_eq_ok_iff] at hu; exact hu.2 ▸ ⟨rfl, rfl, rfl⟩
      · obtain ⟨g, -, rfl⟩ := (State.popWindow_eq_ok_iff s u).mp hu; exact ⟨rfl, rfl, rfl⟩
    injection h with h
    subst h
    cases out <;> simpa [rdWrite] using hk

/-- The depth after a writeback: one more for a call, one less for a return, else the same (R158). -/
theorem writeback_depth (out : ExecOut) (rd : Reg) (s t : State) (h : writeback out rd s = .next t) :
    (∀ l g, out = .call l g → t.regs.depth = s.regs.depth + 1 ∧
      ∀ n, s.cfg.windowDepthMax = some n → s.regs.depth < n) ∧
    (∀ c, out = .ret c → t.regs.depth + 1 = s.regs.depth) ∧
    ((∀ l g, out ≠ .call l g) → (∀ c, out ≠ .ret c) →
      t.regs.below = s.regs.below ∧ t.regs.top.locals = s.regs.top.locals) := by
  unfold writeback at h
  split at h
  · cases h
  · next u hu =>
    injection h with h
    subst h
    cases out with
    | value v => cases hu; simp [rdWrite]
    | skip v => cases hu; simp [rdWrite]
    | nothing => cases hu; simp [rdWrite]
    | call l g =>
      simp only [windowUpdate] at hu
      obtain ⟨hb, rfl⟩ := (State.pushWindow_eq_ok_iff s u).mp hu
      refine ⟨fun _ _ _ => ⟨by simp [rdWrite], hb⟩, by simp, fun hc => absurd rfl (hc l g)⟩
    | ret c =>
      simp only [windowUpdate] at hu
      obtain ⟨g, hg, rfl⟩ := (State.popWindow_eq_ok_iff s u).mp hu
      have hb := ((RegFile.ret_eq_some_iff _ _).mp hg).2.2
      refine ⟨by simp, fun _ _ => ?_, fun _ hr => absurd rfl (hr c)⟩
      simp [rdWrite, RegFile.depth, hb]

/-! ## The I/O device (45_io.md) -/

/-- Everything a device that answers can do: its own answer, with the writes of that answer applied and its bytes emitted. -/
theorem ioDevice_eq_ok_iff (cfg : Config) (c : IoCall) (io io' : IoPort) (m m' : Memory) (v : Word) :
    ioDevice cfg c io m = .ok (v, io', m') ↔
      ∃ ws bs, io.device.reply cfg c m = .ok v ws bs ∧ applyWrites cfg.imageWrites ws m = .ok m' ∧
        io' = { device := io.device.afterCall, output := io.output ++ bs } := by
  unfold ioDevice
  cases io.device.reply cfg c m with
  | err e => simp
  | ok u ws bs =>
    cases h : applyWrites cfg.imageWrites ws m with
    | error e =>
      simp only [h, reduceCtorEq, IoReply.ok.injEq, false_iff, not_exists, not_and]
      rintro ws' bs' ⟨-, rfl, -⟩ h'
      rw [h] at h'; cases h'
    | ok m1 =>
      simp only [h, Except.ok.injEq, Prod.mk.injEq, IoReply.ok.injEq]
      constructor
      · rintro ⟨rfl, rfl, rfl⟩; exact ⟨ws, bs, ⟨rfl, rfl, rfl⟩, h, rfl⟩
      · rintro ⟨ws', bs', ⟨rfl, rfl, rfl⟩, h', rfl⟩
        rw [h] at h'; cases h'; exact ⟨rfl, rfl, rfl⟩

/-- Everything a device that fails can fail with: its own error, or that of a write it may not make (R324). -/
theorem ioDevice_eq_error_iff (cfg : Config) (c : IoCall) (io : IoPort) (m : Memory) (e : IoError) :
    ioDevice cfg c io m = .error e ↔
      io.device.reply cfg c m = .err e ∨
      ∃ v ws bs x, io.device.reply cfg c m = .ok v ws bs ∧ applyWrites cfg.imageWrites ws m = .error x ∧
        e = .memory x := by
  unfold ioDevice
  cases io.device.reply cfg c m with
  | err e' => simp
  | ok u ws bs =>
    cases h : applyWrites cfg.imageWrites ws m with
    | error x =>
      simp only [h, Except.error.injEq, reduceCtorEq, IoReply.ok.injEq, false_or]
      constructor
      · rintro rfl; exact ⟨u, ws, bs, x, ⟨rfl, rfl, rfl⟩, h, rfl⟩
      · rintro ⟨v', ws', bs', x', ⟨rfl, rfl, rfl⟩, h', rfl⟩
        rw [h] at h'; cases h'; rfl
    | ok m1 =>
      simp only [h, reduceCtorEq, IoReply.ok.injEq, false_or, false_iff, not_exists, not_and]
      rintro v' ws' bs' x' ⟨-, rfl, -⟩ h'
      rw [h] at h'; cases h'

/-- A device that answers keeps the canonical form of memory (R325). -/
theorem ioDevice_wf (cfg : Config) (c : IoCall) (v : Word) (io io' : IoPort) (m m' : Memory)
    (hm : m.wf) (h : ioDevice cfg c io m = .ok (v, io', m')) : m'.wf := by
  obtain ⟨ws, bs, -, h1, -⟩ := (ioDevice_eq_ok_iff _ _ _ _ _ _ _).mp h
  exact applyWrites_wf _ _ _ _ hm h1

/-- A device's writes change neither the backend nor a byte of a split image (20_memory.md R51, R66). -/
theorem applyWrites_backend (p : ImageWrites) (ws : List IoWrite) (m m' : Memory) (h : applyWrites p ws m = .ok m') :
    m'.backend = m.backend := by
  induction ws generalizing m with
  | nil => cases h; rfl
  | cons x xs ih =>
    simp only [applyWrites] at h
    split at h
    · cases h
    · next m1 h1 => exact (ih m1 h).trans (Memory.write_backend _ _ _ _ _ _ h1)

theorem applyWrites_image (p : ImageWrites) (ws : List IoWrite) (m m' : Memory) (len x : Nat) (hb : m.backend = .split len)
    (hx : x < len) (h : applyWrites p ws m = .ok m') : m'.byteAt x = m.byteAt x := by
  induction ws generalizing m with
  | nil => cases h; rfl
  | cons y ys ih =>
    simp only [applyWrites] at h
    split at h
    · cases h
    · next m1 h1 =>
      exact (ih m1 ((Memory.write_backend _ _ _ _ _ _ h1).trans hb) h).trans
        (Memory.write_image _ _ _ _ _ _ len x hb hx h1)

/-- What memory a device that answers leaves: that of its writes. -/
theorem ioDevice_mem (cfg : Config) (c : IoCall) (v : Word) (io io' : IoPort) (m m' : Memory)
    (h : ioDevice cfg c io m = .ok (v, io', m')) : ∃ ws, applyWrites cfg.imageWrites ws m = .ok m' := by
  obtain ⟨ws, bs, -, h1, -⟩ := (ioDevice_eq_ok_iff _ _ _ _ _ _ _).mp h
  exact ⟨ws, h1⟩

/-! ## The units -/

/-- The units that only write back. -/
theorem arithUnit_next (f : Word → Word → Word) (rd rs1 : Reg) (src : Src2) (s t : State)
    (h : arithUnit f rd rs1 src s = .next t) : ∃ out rd, writeback out rd s = .next t := ⟨_, _, h⟩

theorem arithSkipUnit_next (f : Word → Word → Word) (rd rs1 : Reg) (src : Src2) (s t : State)
    (h : arithSkipUnit f rd rs1 src s = .next t) : ∃ out rd, writeback out rd s = .next t := ⟨_, _, h⟩

theorem immUpperUnit_next (f : Word → Word → Word) (rd : Reg) (imm : Word) (s t : State)
    (h : immUpperUnit f rd imm s = .next t) : ∃ out rd, writeback out rd s = .next t := ⟨_, _, h⟩

theorem callUnit_next (rd : Reg) (src : Src2) (s t : State)
    (h : callUnit rd src s = .next t) : ∃ out rd, writeback out rd s = .next t := ⟨_, _, h⟩

/-- A load that completes has read its value (43_loadstore.md R271). -/
theorem loadUnit_next (w : Width) (ext : Word → Word) (rd rs1 : Reg) (src : Src2) (s t : State)
    (h : loadUnit w ext rd rs1 src s = .next t) :
    ∃ v, s.mem.read w (s.effectiveAddress rs1 src) = .ok v ∧ writeback (.value (ext v)) rd s = .next t := by
  unfold loadUnit at h
  split at h
  · cases h
  · next v hv => exact ⟨v, hv, h⟩

/-- A store that completes has written its value (43_loadstore.md R280). -/
theorem storeUnit_next (w : Width) (rs3 rs1 : Reg) (src : Src2) (s t : State)
    (h : storeUnit w rs3 rs1 src s = .next t) :
    ∃ m, s.mem.write s.cfg.imageWrites w (s.effectiveAddress rs1 src) (s.reg rs3) = .ok m ∧
      writeback .nothing 0 { s with mem := m } = .next t := by
  unfold storeUnit at h
  split at h
  · cases h
  · next m hm => exact ⟨m, hm, h⟩

/-- An Io instruction that completes has its device's answer (45_io.md R321). -/
theorem ioUnit_next (f : BitVec 8) (rd rs1 : Reg) (src : Src2) (rs3 : Reg) (s t : State)
    (h : ioUnit f rd rs1 src rs3 s = .next t) :
    ∃ v io m, ioDevice s.cfg ⟨f, s.reg rs1, s.operand2 src, s.reg rs3⟩ s.io s.mem = .ok (v, io, m) ∧
      writeback (.value v) rd { s with io := io, mem := m } = .next t := by
  unfold ioUnit at h
  split at h
  · cases h
  · next v io m hv => exact ⟨v, io, m, hv, h⟩

/-! ## Which unit a decoded instruction runs (40_cycle.md R155) -/

/-- An Arith instruction runs the arithmetic unit, or is refused (41_arith.md R200, R230). -/
theorem exec_arithInstr (op : AluOp) (rd rs1 : Reg) (src : Src2) (s : State) :
    (∃ f, exec (arithInstr op rd rs1 src) s = arithUnit f rd rs1 src s) ∨
      ∃ n, exec (arithInstr op rd rs1 src) s = arithRefuse n := by
  cases op <;> cases src <;> first | exact .inl ⟨_, rfl⟩ | exact .inr ⟨_, rfl⟩

/-- An ArithSkip instruction runs the skipping unit, or is refused (41_arith.md R201). -/
theorem exec_arithSkipInstr (op : AluOp) (rd rs1 : Reg) (src : Src2) (s : State) :
    (∃ f, exec (arithSkipInstr op rd rs1 src) s = arithSkipUnit f rd rs1 src s) ∨
      ∃ n, exec (arithSkipInstr op rd rs1 src) s = arithRefuse n := by
  cases op <;> cases src <;> first | exact .inl ⟨_, rfl⟩ | exact .inr ⟨_, rfl⟩

/-- An ImmUpper instruction runs its unit, is refused, or raises its error (42_immupper.md R250). -/
theorem exec_immUpperInstr (f : BitVec 4) (rd : Reg) (imm : Word) (s : State) :
    (∃ g, exec (immUpperInstr s.cfg f rd imm) s = immUpperUnit g rd imm s) ∨
      (∃ r, exec (immUpperInstr s.cfg f rd imm) s = refuse r) ∨
      exec (immUpperInstr s.cfg f rd imm) s = raise .immUpperFunct := by
  unfold immUpperInstr
  split
  · cases s.cfg.immuFunctMap[f.toNat] <;> first | exact .inl ⟨_, rfl⟩ | exact .inr (.inl ⟨_, rfl⟩)
  · exact .inr (.inr rfl)

/-- A Load instruction runs the load unit (43_loadstore.md R271). -/
theorem exec_loadInstr (op : LoadOp) (rd rs1 : Reg) (src : Src2) (s : State) :
    ∃ w ext, exec (loadInstr op rd rs1 src) s = loadUnit w ext rd rs1 src s := by
  cases op <;> cases src <;> exact ⟨_, _, rfl⟩

/-- A Store instruction runs the store unit (43_loadstore.md R280). -/
theorem exec_storeInstr (op : StoreOp) (rs3 rs1 : Reg) (src : Src2) (s : State) :
    ∃ w, exec (storeInstr op rs3 rs1 src) s = storeUnit w rs3 rs1 src s := by
  cases op <;> cases src <;> exact ⟨_, rfl⟩

/-- A Func instruction is a call or a return (44_func.md R300). -/
theorem exec_funcInstr (bit : Bool) (rd rs1 : Reg) (src : Src2) (s : State) :
    exec (funcInstr bit rd rs1 src) s =
      if bit then writeback (.ret (s.reg rs1)) 0 s
      else writeback (.call s.pc (s.pc + s.operand2 src)) rd s := by
  cases bit <;> cases src <;> rfl

/-- An Io instruction calls the device with its funct (45_io.md R321). -/
theorem exec_ioInstr (f : BitVec 8) (rd rs1 : Reg) (src : Src2) (rs3 : Reg) (s : State) :
    exec (ioInstr f rd rs1 src rs3) s = ioUnit f rd rs1 src rs3 s := by
  unfold ioInstr
  split
  · next h => subst h; cases src <;> rfl
  · rfl

/-- Everything a next state of exec can come from: the writeback of an outcome on the state itself, on the state with the
memory of one write, or on the state with a device's answer. -/
theorem exec_next_cases (i : Instr) (s t : State) (h : exec i s = .next t) :
    (∃ out rd, writeback out rd s = .next t) ∨
    (∃ w a v m, s.mem.write s.cfg.imageWrites w a v = .ok m ∧ writeback .nothing 0 { s with mem := m } = .next t) ∨
    (∃ c v io m rd, ioDevice s.cfg c s.io s.mem = .ok (v, io, m) ∧
      writeback (.value v) rd { s with io := io, mem := m } = .next t) := by
  cases i <;>
    (simp only [exec, execAdd, execAddI, execSub, execSubI, execAnd, execAndI, execOr, execOrI, execXor, execXorI, execNot,
      execNotI, execMulu, execMuluI, execMulhu, execMulhuI, execMul, execMulI, execMulh, execMulhI, execDivu, execDivuI,
      execRemu, execRemuI, execDiv, execDivI, execRem, execRemI, execShl, execShlI, execShr, execShrI, execSal, execSalI,
      execSar, execSarI, execRol, execRolI, execRor, execRorI, execArithF20, execArithF20I, execArithF21, execArithF21I,
      execSeq, execSeqI, execSne, execSneI, execSgtu, execSgtuI, execSgt, execSgtI, execSgeu, execSgeuI, execSge, execSgeI,
      execSltu, execSltuI, execSlt, execSltI, execSleu, execSleuI, execSle, execSleI, execAddSk, execAddISk, execSubSk,
      execSubISk, execAndSk, execAndISk, execOrSk, execOrISk, execXorSk, execXorISk, execNotSk, execNotISk, execMuluSk,
      execMuluISk, execMulhuSk, execMulhuISk, execMulSk, execMulISk, execMulhSk, execMulhISk, execDivuSk, execDivuISk,
      execRemuSk, execRemuISk, execDivSk, execDivISk, execRemSk, execRemISk, execShlSk, execShlISk, execShrSk, execShrISk,
      execSalSk, execSalISk, execSarSk, execSarISk, execRolSk, execRolISk, execRorSk, execRorISk, execArithF20Sk,
      execArithF20ISk, execArithF21Sk, execArithF21ISk, execSeqSk, execSeqISk, execSneSk, execSneISk, execSgtuSk,
      execSgtuISk, execSgtSk, execSgtISk, execSgeuSk, execSgeuISk, execSgeSk, execSgeISk, execSltuSk, execSltuISk,
      execSltSk, execSltISk, execSleuSk, execSleuISk, execSleSk, execSleISk, execUadd, execUsub, execUand, execUor,
      execUxor, execUmerge, execImmUpperF6, execImmUpperF7, execImmUpperBadFunct, execLw, execLwI, execLhu, execLhuI,
      execLh, execLhI, execLbu, execLbuI, execLb, execLbI, execSw, execSwI, execSh, execShI, execSb, execSbI, execCall,
      execCallI, execRet, execIo, execIoI, execIoOther, execCompressed, arithRefuse, refuse, raise, reduceCtorEq] at h <;>
    with_reducible first
    | exact .inl ⟨_, _, h⟩
    | exact .inl (arithUnit_next _ _ _ _ s t h)
    | exact .inl (arithSkipUnit_next _ _ _ _ s t h)
    | exact .inl (immUpperUnit_next _ _ _ s t h)
    | exact .inl (callUnit_next _ _ s t h)
    | exact (loadUnit_next _ _ _ _ _ _ _ h).elim fun v hv => .inl ⟨_, _, hv.2⟩
    | exact (storeUnit_next _ _ _ _ _ _ h).elim fun m hm => .inr (.inl ⟨_, _, _, m, hm.1, hm.2⟩)
    | exact (ioUnit_next _ _ _ _ _ _ _ h).elim fun v hv => hv.elim fun io hio => hio.elim fun m hm =>
        .inr (.inr ⟨_, v, io, m, _, hm.1, hm.2⟩))

/-! ## The step -/

/-- A step that completes has fetched a word, decoded it, and run its instruction (40_cycle.md R150). -/
theorem step_next (s t : State) (h : step s = .next t) :
    ∃ w i, s.fetch = .ok w ∧ decodeWith s.cfg w = .ok i ∧ exec i s = .next t := by
  unfold step at h
  split at h
  · cases h
  · next w hw =>
    split at h
    · cases h
    · next i hi => exact ⟨w, i, hw, hi, h⟩

end Sys2Proof.Machine
end

