-- ==== Sys2Proof/Laws/Device.lean ====
section
/-! SUPPORT. What the functions of a supplied I/O device can answer (45_io.md R320): the answer of each form of a program once, and
that programs are closed under case splits on the value of a term and on how a read or a write ends, so that every finite choice is a
program. -/

namespace Sys2Proof.Machine

/-! ## The answer of each form -/

section Forms
variable (i : ImageWrites) (c : IoCall) (m : Memory)

@[simp] theorem IoTerm.eval_const (v : Word) : (IoTerm.const v).eval c m = .ok v := rfl
@[simp] theorem IoTerm.eval_funct : IoTerm.funct.eval c m = .ok (zext c.funct) := rfl
@[simp] theorem IoTerm.eval_s1 : IoTerm.s1.eval c m = .ok c.s1 := rfl
@[simp] theorem IoTerm.eval_s2 : IoTerm.s2.eval c m = .ok c.s2 := rfl
@[simp] theorem IoTerm.eval_s3 : IoTerm.s3.eval c m = .ok c.s3 := rfl

/-- A read through the memory interface (20_memory.md R52). -/
theorem IoTerm.eval_read (w : Width) (t : IoTerm) (a : Word) (h : t.eval c m = .ok a) :
    (IoTerm.read w t).eval c m = m.read w a := by simp only [IoTerm.eval, h]

/-- The length of what a read_slice gives (20_memory.md R70). -/
theorem IoTerm.eval_sliceLen (x y : IoTerm) (a n : Word) (l : List Byte)
    (hx : x.eval c m = .ok a) (hy : y.eval c m = .ok n) (hl : m.readSlice a n.toNat = .ok l) :
    (IoTerm.sliceLen x y).eval c m = .ok (BitVec.ofNat 32 l.length) := by simp only [IoTerm.eval, hx, hy, hl]

theorem IoProgram.reply_answer (t : IoTerm) (v : Word) (h : t.eval c m = .ok v) :
    (IoProgram.answer t).reply i c m = .ok v [] [] := by simp only [IoProgram.reply, h]

@[simp] theorem IoProgram.reply_fail (e : IoError) : (IoProgram.fail e).reply i c m = .err e := rfl

theorem IoProgram.reply_store (w : Width) (x y : IoTerm) (p : IoProgram) (a v : Word)
    (hx : x.eval c m = .ok a) (hy : y.eval c m = .ok v) :
    (IoProgram.store w x y p).reply i c m = (p.reply i c m).addWrite { width := w, addr := a, value := v } := by
  simp only [IoProgram.reply, hx, hy]

theorem IoProgram.reply_emit (x y : IoTerm) (p : IoProgram) (f b : Word)
    (hx : x.eval c m = .ok f) (hy : y.eval c m = .ok b) :
    (IoProgram.emit x y p).reply i c m = (p.reply i c m).addBytes [{ stream := f, byte := extract b 0 8 }] := by
  simp only [IoProgram.reply, hx, hy]

/-- The bytes a read_slice gives are emitted in order (20_memory.md R70). -/
theorem IoProgram.reply_emitSlice (x y z : IoTerm) (p : IoProgram) (f a n : Word) (l : List Byte)
    (hx : x.eval c m = .ok f) (hy : y.eval c m = .ok a) (hz : z.eval c m = .ok n) (hl : m.readSlice a n.toNat = .ok l) :
    (IoProgram.emitSlice x y z p).reply i c m =
      (p.reply i c m).addBytes (l.map (fun b => { stream := f, byte := b })) := by
  simp only [IoProgram.reply, hx, hy, hz, hl]

theorem IoProgram.reply_ifEq (x y : IoTerm) (p q : IoProgram) (a b : Word)
    (hx : x.eval c m = .ok a) (hy : y.eval c m = .ok b) :
    (IoProgram.ifEq x y p q).reply i c m = if a = b then p.reply i c m else q.reply i c m := by
  simp only [IoProgram.reply, hx, hy]

theorem IoProgram.reply_ifFails (x : IoTerm) (e : MemError) (p q : IoProgram) :
    (IoProgram.ifFails x e p q).reply i c m = if x.eval c m = .error e then p.reply i c m else q.reply i c m := rfl

/-- A check before a write (R325). -/
theorem IoProgram.reply_ifWriteFails (w : Width) (x : IoTerm) (e : MemError) (p q : IoProgram) (a : Word)
    (hx : x.eval c m = .ok a) :
    (IoProgram.ifWriteFails w x e p q).reply i c m =
      if m.writeError i w a.toNat = some e then p.reply i c m else q.reply i c m := by simp only [IoProgram.reply, hx]

end Forms

/-! ## What programs there are -/

/-- Every answer is the answer of a program, whatever the call and the memory. -/
theorem IoProgram.exists_reply_eq (r : IoReply) : ∃ p : IoProgram, ∀ i c m, p.reply i c m = r := by
  cases r with
  | err e => exact ⟨.fail e, fun _ _ _ => rfl⟩
  | ok v ws bs =>
    induction ws with
    | nil =>
      induction bs with
      | nil => exact ⟨.answer (.const v), fun _ _ _ => rfl⟩
      | cons b bs ih =>
        obtain ⟨p, hp⟩ := ih
        refine ⟨.emit (.const b.stream) (.const (zext b.byte)) p, fun i c m => ?_⟩
        have hb : extract (zext b.byte) 0 8 = b.byte := by
          apply BitVec.eq_of_toNat_eq
          have := b.byte.isLt
          simp only [extract, zext, BitVec.extractLsb'_toNat, BitVec.toNat_setWidth, Nat.shiftRight_zero]
          omega
        rw [IoProgram.reply_emit i c m _ _ p b.stream (zext b.byte) rfl rfl, hp, hb]
        rfl
    | cons w ws ih =>
      obtain ⟨p, hp⟩ := ih
      refine ⟨.store w.width (.const w.addr) (.const w.value) p, fun i c m => ?_⟩
      rw [IoProgram.reply_store i c m _ _ _ p w.addr w.value rfl rfl, hp]
      rfl

/-- A case split on the value g of a term t, on a set S of policies, calls and memories where t does not fail: if for each value
some program answers as F does, one program does so for all values. -/
theorem IoProgram.exists_reply_of_value (F : ImageWrites → IoCall → Memory → IoReply)
    (S : ImageWrites → IoCall → Memory → Prop) (t : IoTerm)
    (g : IoCall → Memory → Word) (ht : ∀ i c m, S i c m → t.eval c m = .ok (g c m))
    (h : ∀ x : Word, ∃ p : IoProgram, ∀ i c m, S i c m → g c m = x → p.reply i c m = F i c m) :
    ∃ p : IoProgram, ∀ i c m, S i c m → p.reply i c m = F i c m := by
  have key : ∀ n : Nat, ∃ p : IoProgram, ∀ i c m, S i c m → (g c m).toNat < n → p.reply i c m = F i c m := by
    intro n
    induction n with
    | zero => exact ⟨.fail .unknownFunct, fun _ c m _ hn => absurd hn (Nat.not_lt_zero _)⟩
    | succ n ih =>
      obtain ⟨q, hq⟩ := ih
      obtain ⟨p, hp⟩ := h (BitVec.ofNat 32 n)
      refine ⟨.ifEq t (.const (BitVec.ofNat 32 n)) p q, fun i c m hs hn => ?_⟩
      rw [IoProgram.reply_ifEq i c m t _ p q (g c m) _ (ht i c m hs) rfl]
      split
      · next he => exact hp i c m hs he
      · next he =>
        refine hq i c m hs (Nat.lt_of_le_of_ne (Nat.lt_succ_iff.mp hn) fun hc => he ?_)
        rw [← hc, BitVec.ofNat_toNat, BitVec.setWidth_eq]
  obtain ⟨p, hp⟩ := key (2 ^ 32)
  exact ⟨p, fun i c m hs => hp i c m hs (g c m).isLt⟩

/-- A case split on how a byte read at a ends: if for each outcome some program answers as F does, one program does so for all. -/
theorem IoProgram.exists_reply_of_read (a : Word) (F : ImageWrites → IoCall → Memory → IoReply)
    (S : ImageWrites → IoCall → Memory → Prop)
    (h : ∀ r : Except MemError Word, ∃ p : IoProgram, ∀ i c m, S i c m → m.read .byte a = r → p.reply i c m = F i c m) :
    ∃ p : IoProgram, ∀ i c m, S i c m → p.reply i c m = F i c m := by
  obtain ⟨pu, hu⟩ := h (.error .unaligned)
  obtain ⟨po, ho⟩ := h (.error .outOfBounds)
  obtain ⟨pn, hn⟩ := h (.error .uninit)
  have et : ∀ c m, (IoTerm.read .byte (.const a)).eval c m = m.read .byte a := fun c m => IoTerm.eval_read c m _ _ _ rfl
  obtain ⟨pv, hv⟩ := IoProgram.exists_reply_of_value F (fun i c m => S i c m ∧ ∃ x, m.read .byte a = .ok x)
    (.read .byte (.const a)) (fun _ m => match m.read .byte a with | .ok x => x | .error _ => 0)
    (by rintro i c m ⟨-, x, hx⟩; rw [et]; simp only [hx])
    (by
      intro x
      obtain ⟨p, hp⟩ := h (.ok x)
      refine ⟨p, fun i c m hs hg => hp i c m hs.1 ?_⟩
      obtain ⟨-, y, hy⟩ := hs
      simp only [hy] at hg ⊢; rw [hg])
  refine ⟨.ifFails (.read .byte (.const a)) .unaligned pu (.ifFails (.read .byte (.const a)) .outOfBounds po
    (.ifFails (.read .byte (.const a)) .uninit pn pv)), fun i c m hs => ?_⟩
  simp only [IoProgram.reply_ifFails, et]
  cases hr : m.read .byte a with
  | ok x => simpa using hv i c m ⟨hs, x, hr⟩
  | error e =>
    cases e with
    | unaligned => simpa using hu i c m hs hr
    | outOfBounds => simpa using ho i c m hs hr
    | uninit => simpa using hn i c m hs hr

/-- A case split on how a byte write at a would end: if for each outcome some program answers as F does, one program does so for
all. -/
theorem IoProgram.exists_reply_of_write (a : Word) (F : ImageWrites → IoCall → Memory → IoReply)
    (S : ImageWrites → IoCall → Memory → Prop)
    (h : ∀ r : Option MemError, ∃ p : IoProgram, ∀ i c m, S i c m → m.writeError i .byte a.toNat = r →
      p.reply i c m = F i c m) :
    ∃ p : IoProgram, ∀ i c m, S i c m → p.reply i c m = F i c m := by
  obtain ⟨pu, hu⟩ := h (some .unaligned)
  obtain ⟨po, ho⟩ := h (some .outOfBounds)
  obtain ⟨pn, hn⟩ := h (some .uninit)
  obtain ⟨pv, hv⟩ := h none
  refine ⟨.ifWriteFails .byte (.const a) .unaligned pu (.ifWriteFails .byte (.const a) .outOfBounds po
    (.ifWriteFails .byte (.const a) .uninit pn pv)), fun i c m hs => ?_⟩
  simp only [IoProgram.reply_ifWriteFails i c m _ _ _ _ _ a (IoTerm.eval_const c m a)]
  cases hr : m.writeError i .byte a.toNat with
  | none => simpa using hv i c m hs hr
  | some e =>
    cases e with
    | unaligned => simpa using hu i c m hs hr
    | outOfBounds => simpa using ho i c m hs hr
    | uninit => simpa using hn i c m hs hr

end Sys2Proof.Machine
end

