-- ==== Sys2Proof/Laws/Effects.lean ====
section
/-! SUPPORT. What the shared operations do, in the words of Safety.lean: the effect of a writeback,
    when an access fails and what it
stores, what a word decodes to by its opcode, and where each fault comes from. -/

namespace Sys2Proof.Machine

/-! ## Fields of a word as numbers -/

/-- A bit field as a number (00_scope.md R7). -/
theorem toNat_extract (w : Word) (o n : Nat) : (extract w o n).toNat = fieldNat w o n := by
  simp [extract, fieldNat, Nat.shiftRight_eq_div_pow]

/-- A field is below 2 to its width. -/
theorem fieldNat_lt (w : Word) (o n : Nat) : fieldNat w o n < 2^n := Nat.mod_lt _ (Nat.two_pow_pos n)

/-- In the reference OPCODE_MAP the opcode's bits are word bits 3:1 (30_encoding.md R104). -/
theorem toNat_opcode_bits (w : Word) : (opcodeOf Config.reference w).bits.toNat = fieldNat w 1 3 := by
  rw [← toNat_extract, opcodeOf, bits_ofBits]

/-- Where the OPCODE_MAP is the reference one, an opcode is told by its number. -/
theorem opcodeOf_eq_iff (c : Config) (w : Word) (k : Nat) (o : Opcode) (hc : c.opcodeMap = Config.reference.opcodeMap)
    (h : o.bits.toNat = k) : opcodeOf c w = o ↔ fieldNat w 1 3 = k := by
  have e : opcodeOf c w = opcodeOf Config.reference w := by simp only [opcodeOf, Opcode.ofBits, hc]
  rw [e]
  constructor
  · intro ho; rw [← toNat_opcode_bits, ho, h]
  · intro hk
    rw [← toNat_opcode_bits, ← h] at hk
    have : (opcodeOf Config.reference w).bits = o.bits := BitVec.eq_of_toNat_eq hk
    rw [← ofBits_bits (opcodeOf Config.reference w), this, ofBits_bits]

/-- The opcode is the entry of OPCODE_MAP that word bits 3:1 number (R104, R120). -/
theorem opcodeMap_getElem (c : Config) (w : Word) : c.opcodeMap.toList[fieldNat w 1 3]? = some (opcodeOf c w) := by
  have h : fieldNat w 1 3 < 8 := fieldNat_lt w 1 3
  have e : (extract w 1 3).toNat = fieldNat w 1 3 := toNat_extract w 1 3
  simp only [opcodeOf, Opcode.ofBits, e]
  simp [h]

/-- Word bit 0 as a number. -/
theorem bit0_iff (w : Word) : w.getLsbD 0 = true ↔ fieldNat w 0 1 = 1 := by
  simp [fieldNat, BitVec.getLsbD, Nat.testBit_zero]

/-! ## The effect of a writeback on what selectors read -/

/-- PC_STEP, said twice (00_scope.md R5). -/
theorem pcStepOf_eq_slotSize (c : Config) : pcStepOf c = slotSize c := by unfold pcStepOf slotSize; cases c.pcUnit <;> rfl

/-- The fetch address as a number (40_cycle.md R151). -/
theorem toNat_fetchAddrOf (s : State) : (fetchAddrOf s.cfg s.pc).toNat = codeAddress s.cfg s.pc := by
  unfold fetchAddrOf codeAddress
  cases s.cfg.pcUnit <;> simp [BitVec.toNat_mul]

/-- Writing the pc and then the destination gives the whole effect `WritesBack` (R159 to R161). -/
theorem State.writesBack_setReg (rd : Reg) (v pc' : Word) (s : State) : WritesBack rd v pc' s ((s.setPc pc').setReg rd v)
    := by
  constructor
  · by_cases h : rd = 0
    · subst h; simp [State.reg_setReg]
    · simp [State.reg_setReg]
  · intro h; show State.reg _ 2 = _; rw [State.reg_setReg, if_neg (by decide), if_neg (Ne.symm h), State.reg_setPc,
      if_pos rfl]
  · intro r h1 h2; rw [State.reg_setReg, State.reg_setPc, if_neg h1, if_neg h2]; split
    · next h => subst h; rfl
    · rfl
  · simp
  · simp
  · intro h
    have g : ∀ (f : RegFile) (r : Reg) (v : Word), r ≠ 0 → (f.write r v).globals[0] = f.globals[0] := by
      intro f r v hr
      have : (f.write r v).getSlot (slotOf 0) = f.getSlot (slotOf 0) := by
        unfold RegFile.write
        rw [RegFile.getSlot_setSlot, if_neg]; rw [slotOf_eq_iff]; exact Ne.symm hr
      exact this
    rw [State.setReg_regs, g _ _ _ h, State.setPc_regs, g _ _ _ (by decide)]
  · rfl

/-! ## When an access fails, and what it reads or stores -/

/-- A read fails for no reason exactly where it is readable (20_memory.md R55 to R67). -/
theorem Memory.readError_eq_none_iff (m : Memory) (w : Width) (a : Nat) : m.readError w a = none ↔ ReadableAt m w a := by
  unfold Memory.readError ReadableAt ReadRange
  cases m with
  | mk b c k =>
  by_cases h : a % w.bytes = 0
  · have h' : w.aligned a = true := by simp [Width.aligned, h]
    by_cases hm : a / 4096 ∈ k
    · cases b <;> simp [h, h', Memory.hasBlock, blockKey, hm]
    · cases b <;> simp [h, h', Memory.hasBlock, blockKey, hm]
  · have h' : w.aligned a = false := by simp [Width.aligned, h]
    simp [h, h']

/-- Alignment is checked first (R56). -/
theorem Memory.readError_unaligned (m : Memory) (w : Width) (a : Nat) (h : a % w.bytes ≠ 0)
    : m.readError w a = some .unaligned := by
  unfold Memory.readError
  have h' : w.aligned a = false := by simp [Width.aligned, h]
  simp [h']

/-- Outside what the backend holds an aligned read fails with the backend's error. -/
theorem Memory.readError_range (m : Memory) (w : Width) (a : Nat) (h : a % w.bytes = 0) (hn : ¬ ReadRange m w a) :
    m.readError w a = some (readRangeError m) := by
  unfold Memory.readError readRangeError; unfold ReadRange at hn
  have h' : w.aligned a = true := by simp [Width.aligned, h]
  cases m with
  | mk b c k =>
    cases b <;> simp_all [Memory.hasBlock, blockKey]

/-- A write fails for no reason exactly where it stores or is ignored (R55, R60, R64, R68). -/
theorem Memory.writeError_eq_none_iff (m : Memory) (p : ImageWrites) (w : Width) (a : Nat) :
    m.writeError p w a = none ↔ WritableAt m w a ∨ (a % w.bytes = 0 ∧ ImageIgnores p m a) := by
  unfold Memory.writeError WritableAt WriteRange ImageIgnores
  cases m with
  | mk b c k =>
  by_cases h : a % w.bytes = 0
  · have h' : w.aligned a = true := by simp [Width.aligned, h]
    cases b <;> cases p <;> simp [h, h', imageWriteError]
    omega
  · have h' : w.aligned a = false := by simp [Width.aligned, h]
    simp [h, h']

/-- Alignment is checked first (R56). -/
theorem Memory.writeError_unaligned (m : Memory) (p : ImageWrites) (w : Width) (a : Nat) (h : a % w.bytes ≠ 0)
    : m.writeError p w a = some .unaligned := by
  unfold Memory.writeError
  have h' : w.aligned a = false := by simp [Width.aligned, h]
  simp [h']

/-- Outside what the backend allows an aligned write is out of bounds, unless the policy ignores it. -/
theorem Memory.writeError_range (m : Memory) (p : ImageWrites) (w : Width) (a : Nat) (h : a % w.bytes = 0)
    (hn : ¬ WriteRange m w a) (hi : ¬ ImageIgnores p m a) : m.writeError p w a = some .outOfBounds := by
  unfold Memory.writeError; unfold WriteRange at hn; unfold ImageIgnores at hi
  have h' : w.aligned a = true := by simp [Width.aligned, h]
  cases m with
  | mk b c k =>
    cases b <;> cases p <;> simp_all [imageWriteError]

/-- Where a write stores, it is not in the image; where it is ignored, it is (R66, R68). -/
theorem Memory.inImage_of_range (m : Memory) (w : Width) (a : Nat) (h : WriteRange m w a) : m.inImage a = false := by
  unfold WriteRange at h; unfold Memory.inImage
  cases m with
  | mk b c k => cases b <;> simp_all

theorem Memory.inImage_of_ignores (m : Memory) (p : ImageWrites) (a : Nat) (h : ImageIgnores p m a) : m.inImage a = true :=
  (Memory.inImage_iff m a).mpr h.2

/-- The value read is the little-endian sum (R53). -/
theorem Memory.toNat_valueAt (m : Memory) (w : Width) (a : Nat) : (m.valueAt w a).toNat = leSum m a w.bytes := by
  have l : ∀ x : Byte, x.toNat < 256 := fun x => x.isLt
  have h0 := l (m.byteAt a); have h1 := l (m.byteAt (a+1)); have h2 := l (m.byteAt (a+2)); have h3 := l (m.byteAt (a+3))
  cases w
  · simp [Memory.valueAt, zext, leSum, Width.bytes]; omega
  · simp only [Memory.valueAt, zext, leSum, Width.bytes, BitVec.toNat_setWidth, BitVec.toNat_append]
    rw [← Nat.shiftLeft_add_eq_or_of_lt h0, Nat.shiftLeft_eq]; omega
  · simp only [Memory.valueAt, ofLeBytes, leSum, Width.bytes, BitVec.toNat_append]
    rw [← Nat.shiftLeft_add_eq_or_of_lt h0, ← Nat.shiftLeft_add_eq_or_of_lt h1, ← Nat.shiftLeft_add_eq_or_of_lt h2]
    simp only [Nat.shiftLeft_eq]
    have e1 : a + 1 + 1 = a + 2 := by omega
    have e2 : a + 2 + 1 = a + 3 := by omega
    rw [e1, e2]; omega

/-- A sum of n bytes is below 256 to the n. -/
theorem leSum_lt (m : Memory) (n a : Nat) : leSum m a n < 256 ^ n := by
  induction n generalizing a with
  | zero => simp [leSum]
  | succ n ih =>
    have := ih (a+1); have h := (m.byteAt a).isLt
    simp only [leSum, Nat.pow_succ]; omega

/-- What a write leaves (R54, R64). -/
theorem Memory.stored_putValue (m : Memory) (w : Width) (a : Nat) (v : Word)
    : Stored w a v m ((m.allocate a).putValue w a v) := by
  constructor
  · intro k hk
    rw [Memory.byteAt_putValue, if_pos (by omega)]
    simp only [BitVec.extractLsb'_toNat, Nat.shiftRight_eq_div_pow]
    rw [show a + k - a = k by omega, Nat.pow_mul]
  · intro b hb; rw [Memory.byteAt_putValue, if_neg (by omega), Memory.byteAt_allocate]
  · intro k; rw [Memory.putValue_blocks, Memory.mem_blocks_allocate]; rfl
  · simp

/-- An ignored write leaves the memory as it is. -/
theorem Memory.write_ignored (m : Memory) (p : ImageWrites) (w : Width) (a v : Word) (hal : a.toNat % w.bytes = 0)
    (h : ImageIgnores p m a.toNat) : m.write p w a v = .ok m := by
  rw [Memory.write_eq_ok_iff, Memory.writeError_eq_none_iff]
  exact ⟨.inr ⟨hal, h⟩, by unfold Memory.store; rw [Memory.inImage_of_ignores m p _ h, if_pos rfl]⟩

/-- A write that is not ignored has stored, where it may (R54, R64). -/
theorem Memory.write_stored (m m' : Memory) (p : ImageWrites) (w : Width) (a v : Word) (h : m.write p w a v = .ok m')
    (hi : ¬ ImageIgnores p m a.toNat) : WritableAt m w a.toNat ∧ m' = (m.allocate a.toNat).putValue w a.toNat v := by
  obtain ⟨he, rfl⟩ := (Memory.write_eq_ok_iff _ _ _ _ _ _).mp h
  rw [Memory.writeError_eq_none_iff] at he
  have hw : WritableAt m w a.toNat := he.resolve_right (fun hc => hi hc.2)
  refine ⟨hw, ?_⟩
  unfold Memory.store
  rw [Memory.inImage_of_range m w _ hw.2]; rfl

/-- A write where it may store succeeds. -/
theorem Memory.write_of_writable (m : Memory) (p : ImageWrites) (w : Width) (a v : Word) (h : WritableAt m w a.toNat) :
    m.write p w a v = .ok ((m.allocate a.toNat).putValue w a.toNat v) := by
  rw [Memory.write_eq_ok_iff, Memory.writeError_eq_none_iff]
  refine ⟨.inl h, ?_⟩
  unfold Memory.store
  rw [Memory.inImage_of_range m w _ h.2]; rfl

/-- What has been stored can be read. -/
theorem Memory.readableAt_of_write (m m' : Memory) (p : ImageWrites) (w : Width) (a v : Word)
    (h : m.write p w a v = .ok m') (hi : ¬ ImageIgnores p m a.toNat) : ReadableAt m' w a.toNat := by
  obtain ⟨⟨hal, hr⟩, rfl⟩ := Memory.write_stored m m' p w a v h hi
  refine ⟨hal, ?_⟩
  unfold WriteRange at hr; unfold ReadRange
  cases m with
  | mk b c k =>
    cases b <;> simp_all [Memory.allocate, mem_insertKey, blockKey]

/-! ## What a word decodes to, by opcode -/

/-- The unit of each opcode and the operands it is given (30_encoding.md R120). -/
theorem decodeWith_ok_cases (c : Config) (w : Word) (i : Instr) (h : decodeWith c w = .ok i) :
    (opcodeOf c w = .compressed ∧ i = .compressed) ∨
    (opcodeOf c w = .load ∧ ∃ op, LoadOp.ofFunct (functOf c w) = some op ∧
        i = loadInstr op (decodeFields c w).rd (decodeFields c w).rs1 (decodeFields c w).src2) ∨
    (opcodeOf c w = .func ∧ i = funcInstr ((functOf c w).getLsbD 0)
        (decodeFields c w).rd (decodeFields c w).rs1 (decodeFields c w).src2) ∨
    (opcodeOf c w = .store ∧ ∃ op, StoreOp.ofFunct (functOf c w) = some op ∧
        i = storeInstr op (decodeFields c w).rs3 (decodeFields c w).rs1 (decodeFields c w).src2) ∨
    (opcodeOf c w = .arith ∧ ∃ op, AluOp.ofFunct c (functOf c w) = some op ∧
        i = arithInstr op (decodeFields c w).rd (decodeFields c w).rs1 (decodeFields c w).src2) ∨
    (opcodeOf c w = .io ∧ i = ioInstr ((functOf c w).setWidth 8)
        (decodeFields c w).rd (decodeFields c w).rs1 (decodeFields c w).src2 (decodeFields c w).rs3) ∨
    (opcodeOf c w = .arithSkip ∧ ∃ op, AluOp.ofFunct c (functOf c w) = some op ∧
        i = arithSkipInstr op (decodeFields c w).rd (decodeFields c w).rs1 (decodeFields c w).src2) ∨
    (opcodeOf c w = .immUpper ∧ i = immUpperInstr c ((functOf c w).setWidth 4) (decodeFields c w).rd (decodeFields c w).imm) := by
  unfold decodeWith Fields.toInstr at h
  have e1 : (decodeFields c w).opcode = opcodeOf c w := rfl
  have e2 : (decodeFields c w).funct = functOf c w := rfl
  rw [e1, e2] at h
  cases ho : opcodeOf c w <;> rw [ho] at h <;> simp only [reduceCtorEq, false_and, true_and, false_or, or_false]
  · cases h; rfl
  · simp only at h; split at h
    · next op hop => cases h; exact ⟨op, hop, rfl⟩
    · cases h
  · cases h; rfl
  · simp only at h; split at h
    · next op hop => cases h; exact ⟨op, hop, rfl⟩
    · cases h
  · simp only at h; split at h
    · next op hop => cases h; exact ⟨op, hop, rfl⟩
    · cases h
  · cases h; rfl
  · simp only at h; split at h
    · next op hop => cases h; exact ⟨op, hop, rfl⟩
    · cases h
  · cases h; rfl

/-- The second operand: a register, or the decoded immediate (40_cycle.md R154). -/
theorem decodeFields_src2_cases (c : Config) (w : Word) : (decodeFields c w).src2 = .reg (decodeFields c w).rs2 ∨
    (decodeFields c w).src2 = .imm (immOf c w) := by
  unfold Fields.src2; split
  · exact .inr rfl
  · exact .inl rfl

/-- The functs an arithmetic unit rejects (41_arith.md R202). -/
theorem aluOp_ofFunct_none_iff (c : Config) (f : BitVec 13) : AluOp.ofFunct c f = none ↔ 32 ≤ f.toNat := by
  unfold AluOp.ofFunct
  split
  · simp only [reduceCtorEq, false_iff]; omega
  · constructor
    · intro h; (split at h <;> simp_all)
      rename_i x; generalize f.toNat = k at *; by_contra hh; interval_cases k <;> simp_all
    · intro h; split <;> first | rfl | omega

/-- ALU_FUNCT_MAP gives the operation of a funct it lists (41_arith.md R204). -/
theorem aluOp_ofFunct_of_map (c : Config) (f : BitVec 13) (op : AluOp) (h : c.aluFunctMap.toList[f.toNat]? = some op) :
    AluOp.ofFunct c f = some op := by
  have hl : f.toNat < 22 := by
    have := (List.getElem?_eq_some_iff.mp h).1; simpa using this
  unfold AluOp.ofFunct
  rw [dif_pos hl]
  simpa [hl] using h

/-- IMMU_FUNCT_MAP gives the operation of a funct it lists (42_immupper.md R250). -/
theorem immUpperInstr_of_map (c : Config) (f : BitVec 4) (rd : Reg) (imm : Word) (op : ImmuOp)
    (h : c.immuFunctMap.toList[f.toNat]? = some op) : immUpperInstr c f rd imm = immuInstr op rd imm := by
  have hl : f.toNat < 8 := by
    have := (List.getElem?_eq_some_iff.mp h).1; simpa using this
  unfold immUpperInstr
  rw [dif_pos hl]
  congr 1
  simpa [hl] using h

/-- The functs Load rejects (43_loadstore.md R277). -/
theorem loadOp_ofFunct_none_iff (f : BitVec 13) : LoadOp.ofFunct f = none ↔ 5 ≤ f.toNat := by
  unfold LoadOp.ofFunct
  constructor
  · intro h; (split at h <;> simp_all); (rename_i x; generalize f.toNat = k at *; by_contra hh; interval_cases k <;> simp_all)
  · intro h; split <;> first | rfl | omega

/-- The functs Store rejects (43_loadstore.md R284). -/
theorem storeOp_ofFunct_none_iff (f : BitVec 13) : StoreOp.ofFunct f = none ↔ 3 ≤ f.toNat := by
  unfold StoreOp.ofFunct
  constructor
  · intro h; (split at h <;> simp_all); (rename_i x; generalize f.toNat = k at *; by_contra hh; interval_cases k <;> simp_all)
  · intro h; split <;> first | rfl | omega

/-- Why a word is rejected, and the fault that is raised (30_encoding.md R128). -/
theorem decodeWith_error_cases (c : Config) (w : Word) (r : DecodeReject) (h : decodeWith c w = .error r) :
    (opcodeOf c w = .load ∧ 5 ≤ (functOf c w).toNat ∧ rejectFault r = .loadFunct) ∨
    (opcodeOf c w = .store ∧ 3 ≤ (functOf c w).toNat ∧ rejectFault r = .storeFunct) ∨
    ((opcodeOf c w = .arith ∨ opcodeOf c w = .arithSkip) ∧ 32 ≤ (functOf c w).toNat ∧ rejectFault r = .arithmeticFunct) := by
  unfold decodeWith Fields.toInstr at h
  have e1 : (decodeFields c w).opcode = opcodeOf c w := rfl
  have e2 : (decodeFields c w).funct = functOf c w := rfl
  rw [e1, e2] at h
  cases ho : opcodeOf c w <;> rw [ho] at h
  · cases h
  · simp only at h; split at h
    · cases h
    · next hn => cases h; exact .inl ⟨rfl, (loadOp_ofFunct_none_iff _).mp hn, rfl⟩
  · cases h
  · simp only at h; split at h
    · cases h
    · next hn => cases h; exact .inr (.inl ⟨rfl, (storeOp_ofFunct_none_iff _).mp hn, rfl⟩)
  · simp only at h; split at h
    · cases h
    · next hn => cases h; exact .inr (.inr ⟨.inl rfl, (aluOp_ofFunct_none_iff _ _).mp hn, rfl⟩)
  · cases h
  · simp only at h; split at h
    · cases h
    · next hn => cases h; exact .inr (.inr ⟨.inr rfl, (aluOp_ofFunct_none_iff _ _).mp hn, rfl⟩)
  · cases h

/-! ## Where a fault can come from -/

/-- The faults that no funct check raises. -/
def Fault.NoFunct (f : Fault) : Prop := f = .ioFunct ∨ f = .windowUnderflow ∨ f = .windowOverflow ∨ ∃ e, f = .memory e

theorem writeback_fault (out : ExecOut) (rd : Reg) (s : State) (f : Fault) (h : writeback out rd s = .fault f)
    : Fault.NoFunct f := by
  unfold writeback at h
  split at h
  · next f' hf =>
    cases h
    cases out with
    | call l g => simp only [windowUpdate] at hf; obtain ⟨-, rfl⟩ :=
        (State.pushWindow_eq_error_iff _ _).mp hf; simp [Fault.NoFunct]
    | ret c => simp only [windowUpdate] at hf; obtain ⟨-, rfl⟩ :=
        (State.popWindow_eq_error_iff _ _).mp hf; simp [Fault.NoFunct]
    | value v => cases hf
    | skip v => cases hf
    | nothing => cases hf
  · cases h

theorem loadUnit_fault (w e rd rs1 src s f) (h : loadUnit w e rd rs1 src s = .fault f) : Fault.NoFunct f := by
  unfold loadUnit at h; split at h
  · cases h; exact .inr (.inr (.inr ⟨_, rfl⟩))
  · exact writeback_fault _ _ _ _ h

theorem storeUnit_fault (w rs3 rs1 src s f) (h : storeUnit w rs3 rs1 src s = .fault f) : Fault.NoFunct f := by
  unfold storeUnit at h; split at h
  · cases h; exact .inr (.inr (.inr ⟨_, rfl⟩))
  · exact writeback_fault _ _ _ _ h

theorem ioUnit_fault (g rd rs1 src rs3 s f) (h : ioUnit g rd rs1 src rs3 s = .fault f) : Fault.NoFunct f := by
  unfold ioUnit at h; split at h
  · next e _ => cases h; cases e <;> simp [Fault.NoFunct, IoError.fault]
  · exact writeback_fault _ _ _ _ h

theorem callUnit_fault (rd src s f) (h : callUnit rd src s = .fault f) : Fault.NoFunct f := writeback_fault _ _ _ _ h

theorem arithUnit_fault (g rd rs1 src s f) (h : arithUnit g rd rs1 src s = .fault f) : Fault.NoFunct f :=
    writeback_fault _ _ _ _ h

theorem arithSkipUnit_fault (g rd rs1 src s f) (h : arithSkipUnit g rd rs1 src s = .fault f) : Fault.NoFunct f :=
    writeback_fault _ _ _ _ h

theorem immUpperUnit_fault (g rd rs1 s f) (h : immUpperUnit g rd rs1 s = .fault f) : Fault.NoFunct f :=
    writeback_fault _ _ _ _ h

/-- Every fault of exec: of memory, the device or the windows, or one of the two opcodes' own. -/
theorem exec_fault_cases (i : Instr) (s : State) (f : Fault) (h : exec i s = .fault f) :
    Fault.NoFunct f ∨ (∃ g rd v, i = .immUpperBadFunct g rd v ∧ f = .immUpperFunct) ∨ (i = .compressed ∧
        f = .compressedUnsupported) := by
  cases i <;>
    (simp only [exec, execAdd, execAddI, execSub, execSubI, execAnd, execAndI, execOr, execOrI, execXor, execXorI, execNot,
        execNotI, execMulu, execMuluI, execMulhu, execMulhuI, execMul, execMulI, execMulh, execMulhI, execDivu, execDivuI,
        execRemu, execRemuI, execDiv, execDivI, execRem, execRemI, execShl, execShlI, execShr, execShrI, execSal, execSalI,
        execSar, execSarI, execRol, execRolI, execRor, execRorI, execArithF20, execArithF20I, execArithF21, execArithF21I,
        execSeq, execSeqI, execSne, execSneI, execSgtu, execSgtuI, execSgt, execSgtI, execSgeu, execSgeuI, execSge,
        execSgeI, execSltu, execSltuI, execSlt, execSltI, execSleu, execSleuI, execSle, execSleI, execAddSk, execAddISk,
        execSubSk, execSubISk, execAndSk, execAndISk, execOrSk, execOrISk, execXorSk, execXorISk, execNotSk, execNotISk,
        execMuluSk, execMuluISk, execMulhuSk, execMulhuISk, execMulSk, execMulISk, execMulhSk, execMulhISk, execDivuSk,
        execDivuISk, execRemuSk, execRemuISk, execDivSk, execDivISk, execRemSk, execRemISk, execShlSk, execShlISk,
        execShrSk, execShrISk, execSalSk, execSalISk, execSarSk, execSarISk, execRolSk, execRolISk, execRorSk, execRorISk,
        execArithF20Sk, execArithF20ISk, execArithF21Sk, execArithF21ISk, execSeqSk, execSeqISk, execSneSk, execSneISk,
        execSgtuSk, execSgtuISk, execSgtSk, execSgtISk, execSgeuSk, execSgeuISk, execSgeSk, execSgeISk, execSltuSk,
        execSltuISk, execSltSk, execSltISk, execSleuSk, execSleuISk, execSleSk, execSleISk, execUadd, execUsub, execUand,
        execUor, execUxor, execUmerge, execImmUpperF6, execImmUpperF7, execImmUpperBadFunct, execLw, execLwI, execLhu,
        execLhuI, execLh, execLhI, execLbu, execLbuI, execLb, execLbI, execSw, execSwI, execSh, execShI, execSb, execSbI,
        execCall, execCallI, execRet, execIo, execIoI, execIoOther, execCompressed, arithRefuse, refuse, raise,
        reduceCtorEq] at h <;>
    with_reducible first
    | exact .inl (arithUnit_fault _ _ _ _ _ _ h)
    | exact .inl (arithSkipUnit_fault _ _ _ _ _ _ h)
    | exact .inl (immUpperUnit_fault _ _ _ _ _ h)
    | exact .inl (callUnit_fault _ _ _ _ h)
    | exact .inl (writeback_fault _ _ _ _ h)
    | exact .inl (loadUnit_fault _ _ _ _ _ _ _ h)
    | exact .inl (storeUnit_fault _ _ _ _ _ _ h)
    | exact .inl (ioUnit_fault _ _ _ _ _ _ _ h)
    | (cases h; exact .inr (.inl ⟨_, _, _, rfl, rfl⟩))
    | (cases h; exact .inr (.inr ⟨rfl, rfl⟩)))

/-- A step whose fetch answers w, by what w decodes to. -/
theorem step_of_fetch (s : State) (w : Word) (h : s.fetch = .ok w) :
    step s = match decodeWith s.cfg w with | .error r => .fault (rejectFault r) | .ok i => exec i s := by
  unfold step; simp only [h]; rfl

/-- A completing step, by the opcode of its word: the outcome that was written back. -/
theorem step_next_by_opcode (s t : State) (w : Word) (h : s.fetch = .ok w) (ht : step s = .next t) :
    (opcodeOf s.cfg w = .load ∧ ∃ v, writeback (.value v) (extract w 4 5) s = .next t) ∨
    (opcodeOf s.cfg w = .func ∧ (fieldNat w 9 1 = 0 ∧ ∃ l g, writeback (.call l g) (extract w 4 5) s = .next t)) ∨
    (opcodeOf s.cfg w = .func ∧ (fieldNat w 9 1 = 1 ∧ ∃ c, writeback (.ret c) 0 s = .next t)) ∨
    (opcodeOf s.cfg w = .store ∧ ∃ m, writeback .nothing 0 { s with mem := m } = .next t) ∨
    (opcodeOf s.cfg w = .arith ∧ ∃ v, writeback (.value v) (extract w 4 5) s = .next t) ∨
    (opcodeOf s.cfg w = .io ∧ ∃ v io m, writeback (.value v) (extract w 4 5) { s with mem := m, io := io } = .next t) ∨
    (opcodeOf s.cfg w = .arithSkip ∧ ∃ v, writeback (.skip v) (extract w 4 5) s = .next t) ∨
    (opcodeOf s.cfg w = .immUpper ∧ ∃ v, writeback (.value v) (extract w 4 5) s = .next t) := by
  rw [step_of_fetch s w h] at ht
  have hrd : opcodeOf s.cfg w ≠ .store → (decodeFields s.cfg w).rd = extract w 4 5 := by
    intro hn; simp only [decodeFields]
    cases ho : opcodeOf s.cfg w <;> first | rfl | exact absurd ho hn
  cases hd : decodeWith s.cfg w with
  | error r => rw [hd] at ht; cases ht
  | ok i =>
    rw [hd] at ht
    have ht : exec i s = .next t := ht
    rcases decodeWith_ok_cases _ w _ hd with ⟨ho, rfl⟩ | ⟨ho, op, hop, rfl⟩ | ⟨ho, rfl⟩ | ⟨ho, op, hop, rfl⟩ | ⟨ho, op,
        hop, rfl⟩ | ⟨ho, rfl⟩ | ⟨ho, op, hop, rfl⟩ | ⟨ho, rfl⟩
    · cases ht
    · left
      obtain ⟨wd, ext, he⟩ :=
          exec_loadInstr op (decodeFields s.cfg w).rd (decodeFields s.cfg w).rs1 (decodeFields s.cfg w).src2 s
      rw [he] at ht
      obtain ⟨v, -, hw⟩ := loadUnit_next _ _ _ _ _ _ _ ht
      rw [hrd (by rw [ho]; decide)] at hw
      exact ⟨ho, _, hw⟩
    · right
      rw [exec_funcInstr] at ht
      have hb : (functOf s.cfg w).getLsbD 0 = true ↔ fieldNat w 9 1 = 1 := by
        unfold functOf; rw [ho]
        simp only
        rw [BitVec.getLsbD_setWidth]
        have := toNat_extract w 9 1
        rw [← this]
        generalize extract w 9 1 = x
        revert x; decide
      have := fieldNat_lt w 9 1
      split at ht
      · next hc => right; left; exact ⟨ho, hb.mp hc, _, ht⟩
      · next hc =>
        left
        rw [hrd (by rw [ho]; decide)] at ht
        exact ⟨ho, by have := mt hb.mpr hc; omega, _, _, ht⟩
    · right; right; right; left
      obtain ⟨wd, he⟩ :=
          exec_storeInstr op (decodeFields s.cfg w).rs3 (decodeFields s.cfg w).rs1 (decodeFields s.cfg w).src2 s
      rw [he] at ht
      obtain ⟨m, hm, hw⟩ := storeUnit_next _ _ _ _ _ _ ht
      exact ⟨ho, _, hw⟩
    · right; right; right; right; left
      rcases exec_arithInstr op (decodeFields s.cfg w).rd (decodeFields s.cfg w).rs1 (decodeFields s.cfg w).src2 s with ⟨f,
          he⟩ | ⟨n, he⟩
      · rw [he, hrd (by rw [ho]; decide)] at ht; exact ⟨ho, _, ht⟩
      · rw [he] at ht; cases ht
    · right; right; right; right; right; left
      rw [exec_ioInstr] at ht
      obtain ⟨v, io, m, -, hw⟩ := ioUnit_next _ _ _ _ _ _ _ ht
      rw [hrd (by rw [ho]; decide)] at hw
      exact ⟨ho, _, _, _, hw⟩
    · right; right; right; right; right; right; left
      rcases exec_arithSkipInstr op (decodeFields s.cfg w).rd (decodeFields s.cfg w).rs1 (decodeFields s.cfg w).src2 s with ⟨f,
          he⟩ | ⟨n, he⟩
      · rw [he, hrd (by rw [ho]; decide)] at ht; exact ⟨ho, _, ht⟩
      · rw [he] at ht; cases ht
    · right; right; right; right; right; right; right
      rcases exec_immUpperInstr ((functOf s.cfg w).setWidth 4)
          (decodeFields s.cfg w).rd (decodeFields s.cfg w).imm s with ⟨g, he⟩ | ⟨r, he⟩ | he
      · rw [he, hrd (by rw [ho]; decide)] at ht; exact ⟨ho, _, ht⟩
      · rw [he] at ht; cases ht
      · rw [he] at ht; cases ht

end Sys2Proof.Machine
end

