-- ==== Sys2Proof/Laws/PerInstr.lean ====
section
/-! SUPPORT. One law per instruction: the encoder writes the fixed bits that its row of spec/opcode_table.json gives. -/

namespace Sys2Proof

/-- The mask of an instruction's row: which bits the table fixes. -/
def tableMask : Instr → Word
  | .add _ _ _ | .sub _ _ _ | .and _ _ _ | .or _ _ _
  | .xor _ _ _ | .not _ _ _ | .mulu _ _ _ | .mulhu _ _ _
  | .mul _ _ _ | .mulh _ _ _ | .divu _ _ _ | .remu _ _ _
  | .div _ _ _ | .rem _ _ _ | .shl _ _ _ | .shr _ _ _
  | .sal _ _ _ | .sar _ _ _ | .rol _ _ _ | .ror _ _ _
  | .arithF20 _ _ _ | .arithF21 _ _ _ | .seq _ _ _ | .sne _ _ _
  | .sgtu _ _ _ | .sgt _ _ _ | .sgeu _ _ _ | .sge _ _ _
  | .sltu _ _ _ | .slt _ _ _ | .sleu _ _ _ | .sle _ _ _ => 0xFF003E0F
  | .addI _ _ _ | .subI _ _ _ | .andI _ _ _ | .orI _ _ _
  | .xorI _ _ _ | .notI _ _ _ | .muluI _ _ _ | .mulhuI _ _ _
  | .mulI _ _ _ | .mulhI _ _ _ | .divuI _ _ _ | .remuI _ _ _
  | .divI _ _ _ | .remI _ _ _ | .shlI _ _ _ | .shrI _ _ _
  | .salI _ _ _ | .sarI _ _ _ | .rolI _ _ _ | .rorI _ _ _
  | .arithF20I _ _ _ | .arithF21I _ _ _ | .seqI _ _ _ | .sneI _ _ _
  | .sgtuI _ _ _ | .sgtI _ _ _ | .sgeuI _ _ _ | .sgeI _ _ _
  | .sltuI _ _ _ | .sltI _ _ _ | .sleuI _ _ _ | .sleI _ _ _
  | .addSk _ _ _ | .addISk _ _ _ | .subSk _ _ _ | .subISk _ _ _
  | .andSk _ _ _ | .andISk _ _ _ | .orSk _ _ _ | .orISk _ _ _
  | .xorSk _ _ _ | .xorISk _ _ _ | .notSk _ _ _ | .notISk _ _ _
  | .muluSk _ _ _ | .muluISk _ _ _ | .mulhuSk _ _ _ | .mulhuISk _ _ _
  | .mulSk _ _ _ | .mulISk _ _ _ | .mulhSk _ _ _ | .mulhISk _ _ _
  | .divuSk _ _ _ | .divuISk _ _ _ | .remuSk _ _ _ | .remuISk _ _ _
  | .divSk _ _ _ | .divISk _ _ _ | .remSk _ _ _ | .remISk _ _ _
  | .shlSk _ _ _ | .shlISk _ _ _ | .shrSk _ _ _ | .shrISk _ _ _
  | .salSk _ _ _ | .salISk _ _ _ | .sarSk _ _ _ | .sarISk _ _ _
  | .rolSk _ _ _ | .rolISk _ _ _ | .rorSk _ _ _ | .rorISk _ _ _
  | .arithF20Sk _ _ _ | .arithF20ISk _ _ _ | .arithF21Sk _ _ _ | .arithF21ISk _ _ _
  | .seqSk _ _ _ | .seqISk _ _ _ | .sneSk _ _ _ | .sneISk _ _ _
  | .sgtuSk _ _ _ | .sgtuISk _ _ _ | .sgtSk _ _ _ | .sgtISk _ _ _
  | .sgeuSk _ _ _ | .sgeuISk _ _ _ | .sgeSk _ _ _ | .sgeISk _ _ _
  | .sltuSk _ _ _ | .sltuISk _ _ _ | .sltSk _ _ _ | .sltISk _ _ _
  | .sleuSk _ _ _ | .sleuISk _ _ _ | .sleSk _ _ _ | .sleISk _ _ _
  | .lw _ _ _ | .lwI _ _ _ | .lhu _ _ _ | .lhuI _ _ _
  | .lh _ _ _ | .lhI _ _ _ | .lbu _ _ _ | .lbuI _ _ _
  | .lb _ _ _ | .lbI _ _ _ | .sw _ _ _ | .swI _ _ _
  | .sh _ _ _ | .shI _ _ _ | .sb _ _ _ | .sbI _ _ _ => 0x00003E0F
  | .uadd _ _ | .usub _ _ | .uand _ _ | .uor _ _
  | .uxor _ _ | .umerge _ _ | .immUpperF6 _ _ | .immUpperF7 _ _ => 0x00001E0E
  | .immUpperBadFunct _ _ _ => 0x0000100E
  | .call _ _ | .callI _ _ => 0x0000020F
  | .ret _ => 0x0000020E
  | .io _ _ _ _ | .ioI _ _ _ _ => 0xE0003E0F
  | .ioOther _ _ _ _ _ | .compressed => 0x0000000E

/-- The value of an instruction's row in those bits. -/
def tableMatch : Instr → Word
  | .add _ _ _ => 0x00000008 | .addI _ _ _ => 0x00000009
  | .sub _ _ _ => 0x00000208 | .subI _ _ _ => 0x00000209
  | .and _ _ _ => 0x00000408 | .andI _ _ _ => 0x00000409
  | .or _ _ _ => 0x00000608 | .orI _ _ _ => 0x00000609
  | .xor _ _ _ => 0x00000808 | .xorI _ _ _ => 0x00000809
  | .not _ _ _ => 0x00000A08 | .notI _ _ _ => 0x00000A09
  | .mulu _ _ _ => 0x00000C08 | .muluI _ _ _ => 0x00000C09
  | .mulhu _ _ _ => 0x00000E08 | .mulhuI _ _ _ => 0x00000E09
  | .mul _ _ _ => 0x00001008 | .mulI _ _ _ => 0x00001009
  | .mulh _ _ _ => 0x00001208 | .mulhI _ _ _ => 0x00001209
  | .divu _ _ _ => 0x00001408 | .divuI _ _ _ => 0x00001409
  | .remu _ _ _ => 0x00001608 | .remuI _ _ _ => 0x00001609
  | .div _ _ _ => 0x00001808 | .divI _ _ _ => 0x00001809
  | .rem _ _ _ => 0x00001A08 | .remI _ _ _ => 0x00001A09
  | .shl _ _ _ => 0x00001C08 | .shlI _ _ _ => 0x00001C09
  | .shr _ _ _ => 0x00001E08 | .shrI _ _ _ => 0x00001E09
  | .sal _ _ _ => 0x00002008 | .salI _ _ _ => 0x00002009
  | .sar _ _ _ => 0x00002208 | .sarI _ _ _ => 0x00002209
  | .rol _ _ _ => 0x00002408 | .rolI _ _ _ => 0x00002409
  | .ror _ _ _ => 0x00002608 | .rorI _ _ _ => 0x00002609
  | .arithF20 _ _ _ => 0x00002808 | .arithF20I _ _ _ => 0x00002809
  | .arithF21 _ _ _ => 0x00002A08 | .arithF21I _ _ _ => 0x00002A09
  | .seq _ _ _ => 0x00002C08 | .seqI _ _ _ => 0x00002C09
  | .sne _ _ _ => 0x00002E08 | .sneI _ _ _ => 0x00002E09
  | .sgtu _ _ _ => 0x00003008 | .sgtuI _ _ _ => 0x00003009
  | .sgt _ _ _ => 0x00003208 | .sgtI _ _ _ => 0x00003209
  | .sgeu _ _ _ => 0x00003408 | .sgeuI _ _ _ => 0x00003409
  | .sge _ _ _ => 0x00003608 | .sgeI _ _ _ => 0x00003609
  | .sltu _ _ _ => 0x00003808 | .sltuI _ _ _ => 0x00003809
  | .slt _ _ _ => 0x00003A08 | .sltI _ _ _ => 0x00003A09
  | .sleu _ _ _ => 0x00003C08 | .sleuI _ _ _ => 0x00003C09
  | .sle _ _ _ => 0x00003E08 | .sleI _ _ _ => 0x00003E09
  | .addSk _ _ _ => 0x0000000C | .addISk _ _ _ => 0x0000000D
  | .subSk _ _ _ => 0x0000020C | .subISk _ _ _ => 0x0000020D
  | .andSk _ _ _ => 0x0000040C | .andISk _ _ _ => 0x0000040D
  | .orSk _ _ _ => 0x0000060C | .orISk _ _ _ => 0x0000060D
  | .xorSk _ _ _ => 0x0000080C | .xorISk _ _ _ => 0x0000080D
  | .notSk _ _ _ => 0x00000A0C | .notISk _ _ _ => 0x00000A0D
  | .muluSk _ _ _ => 0x00000C0C | .muluISk _ _ _ => 0x00000C0D
  | .mulhuSk _ _ _ => 0x00000E0C | .mulhuISk _ _ _ => 0x00000E0D
  | .mulSk _ _ _ => 0x0000100C | .mulISk _ _ _ => 0x0000100D
  | .mulhSk _ _ _ => 0x0000120C | .mulhISk _ _ _ => 0x0000120D
  | .divuSk _ _ _ => 0x0000140C | .divuISk _ _ _ => 0x0000140D
  | .remuSk _ _ _ => 0x0000160C | .remuISk _ _ _ => 0x0000160D
  | .divSk _ _ _ => 0x0000180C | .divISk _ _ _ => 0x0000180D
  | .remSk _ _ _ => 0x00001A0C | .remISk _ _ _ => 0x00001A0D
  | .shlSk _ _ _ => 0x00001C0C | .shlISk _ _ _ => 0x00001C0D
  | .shrSk _ _ _ => 0x00001E0C | .shrISk _ _ _ => 0x00001E0D
  | .salSk _ _ _ => 0x0000200C | .salISk _ _ _ => 0x0000200D
  | .sarSk _ _ _ => 0x0000220C | .sarISk _ _ _ => 0x0000220D
  | .rolSk _ _ _ => 0x0000240C | .rolISk _ _ _ => 0x0000240D
  | .rorSk _ _ _ => 0x0000260C | .rorISk _ _ _ => 0x0000260D
  | .arithF20Sk _ _ _ => 0x0000280C | .arithF20ISk _ _ _ => 0x0000280D
  | .arithF21Sk _ _ _ => 0x00002A0C | .arithF21ISk _ _ _ => 0x00002A0D
  | .seqSk _ _ _ => 0x00002C0C | .seqISk _ _ _ => 0x00002C0D
  | .sneSk _ _ _ => 0x00002E0C | .sneISk _ _ _ => 0x00002E0D
  | .sgtuSk _ _ _ => 0x0000300C | .sgtuISk _ _ _ => 0x0000300D
  | .sgtSk _ _ _ => 0x0000320C | .sgtISk _ _ _ => 0x0000320D
  | .sgeuSk _ _ _ => 0x0000340C | .sgeuISk _ _ _ => 0x0000340D
  | .sgeSk _ _ _ => 0x0000360C | .sgeISk _ _ _ => 0x0000360D
  | .sltuSk _ _ _ => 0x0000380C | .sltuISk _ _ _ => 0x0000380D
  | .sltSk _ _ _ => 0x00003A0C | .sltISk _ _ _ => 0x00003A0D
  | .sleuSk _ _ _ => 0x00003C0C | .sleuISk _ _ _ => 0x00003C0D
  | .sleSk _ _ _ => 0x00003E0C | .sleISk _ _ _ => 0x00003E0D
  | .uadd _ _ => 0x0000000E | .usub _ _ => 0x0000020E
  | .uand _ _ => 0x0000040E | .uor _ _ => 0x0000060E
  | .uxor _ _ => 0x0000080E | .umerge _ _ => 0x00000A0E
  | .immUpperF6 _ _ => 0x00000C0E | .immUpperF7 _ _ => 0x00000E0E
  | .immUpperBadFunct _ _ _ => 0x0000100E | .lw _ _ _ => 0x00000002
  | .lwI _ _ _ => 0x00000003 | .lhu _ _ _ => 0x00000202
  | .lhuI _ _ _ => 0x00000203 | .lh _ _ _ => 0x00000402
  | .lhI _ _ _ => 0x00000403 | .lbu _ _ _ => 0x00000602
  | .lbuI _ _ _ => 0x00000603 | .lb _ _ _ => 0x00000802
  | .lbI _ _ _ => 0x00000803 | .sw _ _ _ => 0x00000006
  | .swI _ _ _ => 0x00000007 | .sh _ _ _ => 0x00000206
  | .shI _ _ _ => 0x00000207 | .sb _ _ _ => 0x00000406
  | .sbI _ _ _ => 0x00000407 | .call _ _ => 0x00000004
  | .callI _ _ => 0x00000005 | .ret _ => 0x00000204
  | .io _ _ _ _ => 0x0000000A | .ioI _ _ _ _ => 0x0000000B
  | .ioOther _ _ _ _ _ => 0x0000000A | .compressed => 0x00000000

section Masks
variable (mid : BitVec 3) (hi rs2 rs1 lo rd : BitVec 5) (op : Opcode) (i : Bool)

theorem pack_and_funct : pack mid hi rs2 rs1 lo rd op i &&& 0x00003E0F = pack 0 0 0 0 lo 0 op i := by
  unfold pack
  apply BitVec.eq_of_getLsbD_eq; intro j hj
  simp only [BitVec.getLsbD_and, BitVec.getLsbD_append]
  interval_cases j <;> simp

theorem pack_and_arith : pack mid hi rs2 rs1 lo rd op i &&& 0xFF003E0F = pack mid hi 0 0 lo 0 op i := by
  unfold pack
  apply BitVec.eq_of_getLsbD_eq; intro j hj
  simp only [BitVec.getLsbD_and, BitVec.getLsbD_append]
  interval_cases j <;> simp

theorem pack_and_io : pack mid hi rs2 rs1 lo rd op i &&& 0xE0003E0F = pack mid 0 0 0 lo 0 op i := by
  unfold pack
  apply BitVec.eq_of_getLsbD_eq; intro j hj
  simp only [BitVec.getLsbD_and, BitVec.getLsbD_append]
  interval_cases j <;> simp

theorem pack_and_upper : pack mid hi rs2 rs1 lo rd op i &&& 0x00001E0E = pack 0 0 0 0 (lo &&& 15) 0 op false := by
  unfold pack
  apply BitVec.eq_of_getLsbD_eq; intro j hj
  simp only [BitVec.getLsbD_and, BitVec.getLsbD_append]
  interval_cases j <;> simp

theorem pack_and_upper_bad : pack mid hi rs2 rs1 lo rd op i &&& 0x0000100E = pack 0 0 0 0 (lo &&& 8) 0 op false := by
  unfold pack
  apply BitVec.eq_of_getLsbD_eq; intro j hj
  simp only [BitVec.getLsbD_and, BitVec.getLsbD_append]
  interval_cases j <;> simp

theorem pack_and_call : pack mid hi rs2 rs1 lo rd op i &&& 0x0000020F = pack 0 0 0 0 (lo &&& 1) 0 op i := by
  unfold pack
  apply BitVec.eq_of_getLsbD_eq; intro j hj
  simp only [BitVec.getLsbD_and, BitVec.getLsbD_append]
  interval_cases j <;> simp

theorem pack_and_ret : pack mid hi rs2 rs1 lo rd op i &&& 0x0000020E = pack 0 0 0 0 (lo &&& 1) 0 op false := by
  unfold pack
  apply BitVec.eq_of_getLsbD_eq; intro j hj
  simp only [BitVec.getLsbD_and, BitVec.getLsbD_append]
  interval_cases j <;> simp

theorem pack_and_op : pack mid hi rs2 rs1 lo rd op i &&& 0x0000000E = pack 0 0 0 0 0 0 op false := by
  unfold pack
  apply BitVec.eq_of_getLsbD_eq; intro j hj
  simp only [BitVec.getLsbD_and, BitVec.getLsbD_append]
  interval_cases j <;> simp

end Masks

/-- The low four bits of an ImmUpper f_lo field are the funct. -/
theorem upper_lo_and (b : BitVec 1) (f : BitVec 4) : (b ++ f) &&& (15 : BitVec 5) = (0 : BitVec 1) ++ f := by
  revert b f; decide

theorem upper_lo_and_bad (b : BitVec 1) (f : BitVec 4) (h : 8 ≤ f.toNat) : (b ++ f) &&& (8 : BitVec 5) = 8 := by
  revert b f; decide

theorem func_lo_and (b : BitVec 1) : (b ++ (0 : BitVec 4)) &&& (1 : BitVec 5) = 0 := by
  revert b; decide

/-- The encoding of a well-formed instruction matches its row of the table. -/
def Laws.TableWord.Statement (i : Instr) : Prop := WellFormed i → encode i &&& tableMask i = tableMatch i

theorem Laws.TableWord.add (rd rs1 rs2 : Reg) : Laws.TableWord.Statement (.add rd rs1 rs2) := fun _ => (pack_and_arith ..).trans rfl
theorem Laws.TableWord.addI (rd rs1 : Reg) (imm : Word) : Laws.TableWord.Statement (.addI rd rs1 imm) := fun _ => (pack_and_funct ..).trans rfl
theorem Laws.TableWord.sub (rd rs1 rs2 : Reg) : Laws.TableWord.Statement (.sub rd rs1 rs2) := fun _ => (pack_and_arith ..).trans rfl
theorem Laws.TableWord.subI (rd rs1 : Reg) (imm : Word) : Laws.TableWord.Statement (.subI rd rs1 imm) := fun _ => (pack_and_funct ..).trans rfl
theorem Laws.TableWord.and (rd rs1 rs2 : Reg) : Laws.TableWord.Statement (.and rd rs1 rs2) := fun _ => (pack_and_arith ..).trans rfl
theorem Laws.TableWord.andI (rd rs1 : Reg) (imm : Word) : Laws.TableWord.Statement (.andI rd rs1 imm) := fun _ => (pack_and_funct ..).trans rfl
theorem Laws.TableWord.or (rd rs1 rs2 : Reg) : Laws.TableWord.Statement (.or rd rs1 rs2) := fun _ => (pack_and_arith ..).trans rfl
theorem Laws.TableWord.orI (rd rs1 : Reg) (imm : Word) : Laws.TableWord.Statement (.orI rd rs1 imm) := fun _ => (pack_and_funct ..).trans rfl
theorem Laws.TableWord.xor (rd rs1 rs2 : Reg) : Laws.TableWord.Statement (.xor rd rs1 rs2) := fun _ => (pack_and_arith ..).trans rfl
theorem Laws.TableWord.xorI (rd rs1 : Reg) (imm : Word) : Laws.TableWord.Statement (.xorI rd rs1 imm) := fun _ => (pack_and_funct ..).trans rfl
theorem Laws.TableWord.not (rd rs1 rs2 : Reg) : Laws.TableWord.Statement (.not rd rs1 rs2) := fun _ => (pack_and_arith ..).trans rfl
theorem Laws.TableWord.notI (rd rs1 : Reg) (imm : Word) : Laws.TableWord.Statement (.notI rd rs1 imm) := fun _ => (pack_and_funct ..).trans rfl
theorem Laws.TableWord.mulu (rd rs1 rs2 : Reg) : Laws.TableWord.Statement (.mulu rd rs1 rs2) := fun _ => (pack_and_arith ..).trans rfl
theorem Laws.TableWord.muluI (rd rs1 : Reg) (imm : Word) : Laws.TableWord.Statement (.muluI rd rs1 imm) := fun _ => (pack_and_funct ..).trans rfl
theorem Laws.TableWord.mulhu (rd rs1 rs2 : Reg) : Laws.TableWord.Statement (.mulhu rd rs1 rs2) := fun _ => (pack_and_arith ..).trans rfl
theorem Laws.TableWord.mulhuI (rd rs1 : Reg) (imm : Word) : Laws.TableWord.Statement (.mulhuI rd rs1 imm) := fun _ => (pack_and_funct ..).trans rfl
theorem Laws.TableWord.mul (rd rs1 rs2 : Reg) : Laws.TableWord.Statement (.mul rd rs1 rs2) := fun _ => (pack_and_arith ..).trans rfl
theorem Laws.TableWord.mulI (rd rs1 : Reg) (imm : Word) : Laws.TableWord.Statement (.mulI rd rs1 imm) := fun _ => (pack_and_funct ..).trans rfl
theorem Laws.TableWord.mulh (rd rs1 rs2 : Reg) : Laws.TableWord.Statement (.mulh rd rs1 rs2) := fun _ => (pack_and_arith ..).trans rfl
theorem Laws.TableWord.mulhI (rd rs1 : Reg) (imm : Word) : Laws.TableWord.Statement (.mulhI rd rs1 imm) := fun _ => (pack_and_funct ..).trans rfl
theorem Laws.TableWord.divu (rd rs1 rs2 : Reg) : Laws.TableWord.Statement (.divu rd rs1 rs2) := fun _ => (pack_and_arith ..).trans rfl
theorem Laws.TableWord.divuI (rd rs1 : Reg) (imm : Word) : Laws.TableWord.Statement (.divuI rd rs1 imm) := fun _ => (pack_and_funct ..).trans rfl
theorem Laws.TableWord.remu (rd rs1 rs2 : Reg) : Laws.TableWord.Statement (.remu rd rs1 rs2) := fun _ => (pack_and_arith ..).trans rfl
theorem Laws.TableWord.remuI (rd rs1 : Reg) (imm : Word) : Laws.TableWord.Statement (.remuI rd rs1 imm) := fun _ => (pack_and_funct ..).trans rfl
theorem Laws.TableWord.div (rd rs1 rs2 : Reg) : Laws.TableWord.Statement (.div rd rs1 rs2) := fun _ => (pack_and_arith ..).trans rfl
theorem Laws.TableWord.divI (rd rs1 : Reg) (imm : Word) : Laws.TableWord.Statement (.divI rd rs1 imm) := fun _ => (pack_and_funct ..).trans rfl
theorem Laws.TableWord.rem (rd rs1 rs2 : Reg) : Laws.TableWord.Statement (.rem rd rs1 rs2) := fun _ => (pack_and_arith ..).trans rfl
theorem Laws.TableWord.remI (rd rs1 : Reg) (imm : Word) : Laws.TableWord.Statement (.remI rd rs1 imm) := fun _ => (pack_and_funct ..).trans rfl
theorem Laws.TableWord.shl (rd rs1 rs2 : Reg) : Laws.TableWord.Statement (.shl rd rs1 rs2) := fun _ => (pack_and_arith ..).trans rfl
theorem Laws.TableWord.shlI (rd rs1 : Reg) (imm : Word) : Laws.TableWord.Statement (.shlI rd rs1 imm) := fun _ => (pack_and_funct ..).trans rfl
theorem Laws.TableWord.shr (rd rs1 rs2 : Reg) : Laws.TableWord.Statement (.shr rd rs1 rs2) := fun _ => (pack_and_arith ..).trans rfl
theorem Laws.TableWord.shrI (rd rs1 : Reg) (imm : Word) : Laws.TableWord.Statement (.shrI rd rs1 imm) := fun _ => (pack_and_funct ..).trans rfl
theorem Laws.TableWord.sal (rd rs1 rs2 : Reg) : Laws.TableWord.Statement (.sal rd rs1 rs2) := fun _ => (pack_and_arith ..).trans rfl
theorem Laws.TableWord.salI (rd rs1 : Reg) (imm : Word) : Laws.TableWord.Statement (.salI rd rs1 imm) := fun _ => (pack_and_funct ..).trans rfl
theorem Laws.TableWord.sar (rd rs1 rs2 : Reg) : Laws.TableWord.Statement (.sar rd rs1 rs2) := fun _ => (pack_and_arith ..).trans rfl
theorem Laws.TableWord.sarI (rd rs1 : Reg) (imm : Word) : Laws.TableWord.Statement (.sarI rd rs1 imm) := fun _ => (pack_and_funct ..).trans rfl
theorem Laws.TableWord.rol (rd rs1 rs2 : Reg) : Laws.TableWord.Statement (.rol rd rs1 rs2) := fun _ => (pack_and_arith ..).trans rfl
theorem Laws.TableWord.rolI (rd rs1 : Reg) (imm : Word) : Laws.TableWord.Statement (.rolI rd rs1 imm) := fun _ => (pack_and_funct ..).trans rfl
theorem Laws.TableWord.ror (rd rs1 rs2 : Reg) : Laws.TableWord.Statement (.ror rd rs1 rs2) := fun _ => (pack_and_arith ..).trans rfl
theorem Laws.TableWord.rorI (rd rs1 : Reg) (imm : Word) : Laws.TableWord.Statement (.rorI rd rs1 imm) := fun _ => (pack_and_funct ..).trans rfl
theorem Laws.TableWord.arithF20 (rd rs1 rs2 : Reg) : Laws.TableWord.Statement (.arithF20 rd rs1 rs2) := fun _ => (pack_and_arith ..).trans rfl
theorem Laws.TableWord.arithF20I (rd rs1 : Reg) (imm : Word) : Laws.TableWord.Statement (.arithF20I rd rs1 imm) := fun _ => (pack_and_funct ..).trans rfl
theorem Laws.TableWord.arithF21 (rd rs1 rs2 : Reg) : Laws.TableWord.Statement (.arithF21 rd rs1 rs2) := fun _ => (pack_and_arith ..).trans rfl
theorem Laws.TableWord.arithF21I (rd rs1 : Reg) (imm : Word) : Laws.TableWord.Statement (.arithF21I rd rs1 imm) := fun _ => (pack_and_funct ..).trans rfl
theorem Laws.TableWord.seq (rd rs1 rs2 : Reg) : Laws.TableWord.Statement (.seq rd rs1 rs2) := fun _ => (pack_and_arith ..).trans rfl
theorem Laws.TableWord.seqI (rd rs1 : Reg) (imm : Word) : Laws.TableWord.Statement (.seqI rd rs1 imm) := fun _ => (pack_and_funct ..).trans rfl
theorem Laws.TableWord.sne (rd rs1 rs2 : Reg) : Laws.TableWord.Statement (.sne rd rs1 rs2) := fun _ => (pack_and_arith ..).trans rfl
theorem Laws.TableWord.sneI (rd rs1 : Reg) (imm : Word) : Laws.TableWord.Statement (.sneI rd rs1 imm) := fun _ => (pack_and_funct ..).trans rfl
theorem Laws.TableWord.sgtu (rd rs1 rs2 : Reg) : Laws.TableWord.Statement (.sgtu rd rs1 rs2) := fun _ => (pack_and_arith ..).trans rfl
theorem Laws.TableWord.sgtuI (rd rs1 : Reg) (imm : Word) : Laws.TableWord.Statement (.sgtuI rd rs1 imm) := fun _ => (pack_and_funct ..).trans rfl
theorem Laws.TableWord.sgt (rd rs1 rs2 : Reg) : Laws.TableWord.Statement (.sgt rd rs1 rs2) := fun _ => (pack_and_arith ..).trans rfl
theorem Laws.TableWord.sgtI (rd rs1 : Reg) (imm : Word) : Laws.TableWord.Statement (.sgtI rd rs1 imm) := fun _ => (pack_and_funct ..).trans rfl
theorem Laws.TableWord.sgeu (rd rs1 rs2 : Reg) : Laws.TableWord.Statement (.sgeu rd rs1 rs2) := fun _ => (pack_and_arith ..).trans rfl
theorem Laws.TableWord.sgeuI (rd rs1 : Reg) (imm : Word) : Laws.TableWord.Statement (.sgeuI rd rs1 imm) := fun _ => (pack_and_funct ..).trans rfl
theorem Laws.TableWord.sge (rd rs1 rs2 : Reg) : Laws.TableWord.Statement (.sge rd rs1 rs2) := fun _ => (pack_and_arith ..).trans rfl
theorem Laws.TableWord.sgeI (rd rs1 : Reg) (imm : Word) : Laws.TableWord.Statement (.sgeI rd rs1 imm) := fun _ => (pack_and_funct ..).trans rfl
theorem Laws.TableWord.sltu (rd rs1 rs2 : Reg) : Laws.TableWord.Statement (.sltu rd rs1 rs2) := fun _ => (pack_and_arith ..).trans rfl
theorem Laws.TableWord.sltuI (rd rs1 : Reg) (imm : Word) : Laws.TableWord.Statement (.sltuI rd rs1 imm) := fun _ => (pack_and_funct ..).trans rfl
theorem Laws.TableWord.slt (rd rs1 rs2 : Reg) : Laws.TableWord.Statement (.slt rd rs1 rs2) := fun _ => (pack_and_arith ..).trans rfl
theorem Laws.TableWord.sltI (rd rs1 : Reg) (imm : Word) : Laws.TableWord.Statement (.sltI rd rs1 imm) := fun _ => (pack_and_funct ..).trans rfl
theorem Laws.TableWord.sleu (rd rs1 rs2 : Reg) : Laws.TableWord.Statement (.sleu rd rs1 rs2) := fun _ => (pack_and_arith ..).trans rfl
theorem Laws.TableWord.sleuI (rd rs1 : Reg) (imm : Word) : Laws.TableWord.Statement (.sleuI rd rs1 imm) := fun _ => (pack_and_funct ..).trans rfl
theorem Laws.TableWord.sle (rd rs1 rs2 : Reg) : Laws.TableWord.Statement (.sle rd rs1 rs2) := fun _ => (pack_and_arith ..).trans rfl
theorem Laws.TableWord.sleI (rd rs1 : Reg) (imm : Word) : Laws.TableWord.Statement (.sleI rd rs1 imm) := fun _ => (pack_and_funct ..).trans rfl
theorem Laws.TableWord.addSk (rd rs1 rs2 : Reg) : Laws.TableWord.Statement (.addSk rd rs1 rs2) := fun _ => (pack_and_funct ..).trans rfl
theorem Laws.TableWord.addISk (rd rs1 : Reg) (imm : Word) : Laws.TableWord.Statement (.addISk rd rs1 imm) := fun _ => (pack_and_funct ..).trans rfl
theorem Laws.TableWord.subSk (rd rs1 rs2 : Reg) : Laws.TableWord.Statement (.subSk rd rs1 rs2) := fun _ => (pack_and_funct ..).trans rfl
theorem Laws.TableWord.subISk (rd rs1 : Reg) (imm : Word) : Laws.TableWord.Statement (.subISk rd rs1 imm) := fun _ => (pack_and_funct ..).trans rfl
theorem Laws.TableWord.andSk (rd rs1 rs2 : Reg) : Laws.TableWord.Statement (.andSk rd rs1 rs2) := fun _ => (pack_and_funct ..).trans rfl
theorem Laws.TableWord.andISk (rd rs1 : Reg) (imm : Word) : Laws.TableWord.Statement (.andISk rd rs1 imm) := fun _ => (pack_and_funct ..).trans rfl
theorem Laws.TableWord.orSk (rd rs1 rs2 : Reg) : Laws.TableWord.Statement (.orSk rd rs1 rs2) := fun _ => (pack_and_funct ..).trans rfl
theorem Laws.TableWord.orISk (rd rs1 : Reg) (imm : Word) : Laws.TableWord.Statement (.orISk rd rs1 imm) := fun _ => (pack_and_funct ..).trans rfl
theorem Laws.TableWord.xorSk (rd rs1 rs2 : Reg) : Laws.TableWord.Statement (.xorSk rd rs1 rs2) := fun _ => (pack_and_funct ..).trans rfl
theorem Laws.TableWord.xorISk (rd rs1 : Reg) (imm : Word) : Laws.TableWord.Statement (.xorISk rd rs1 imm) := fun _ => (pack_and_funct ..).trans rfl
theorem Laws.TableWord.notSk (rd rs1 rs2 : Reg) : Laws.TableWord.Statement (.notSk rd rs1 rs2) := fun _ => (pack_and_funct ..).trans rfl
theorem Laws.TableWord.notISk (rd rs1 : Reg) (imm : Word) : Laws.TableWord.Statement (.notISk rd rs1 imm) := fun _ => (pack_and_funct ..).trans rfl
theorem Laws.TableWord.muluSk (rd rs1 rs2 : Reg) : Laws.TableWord.Statement (.muluSk rd rs1 rs2) := fun _ => (pack_and_funct ..).trans rfl
theorem Laws.TableWord.muluISk (rd rs1 : Reg) (imm : Word) : Laws.TableWord.Statement (.muluISk rd rs1 imm) := fun _ => (pack_and_funct ..).trans rfl
theorem Laws.TableWord.mulhuSk (rd rs1 rs2 : Reg) : Laws.TableWord.Statement (.mulhuSk rd rs1 rs2) := fun _ => (pack_and_funct ..).trans rfl
theorem Laws.TableWord.mulhuISk (rd rs1 : Reg) (imm : Word) : Laws.TableWord.Statement (.mulhuISk rd rs1 imm) := fun _ => (pack_and_funct ..).trans rfl
theorem Laws.TableWord.mulSk (rd rs1 rs2 : Reg) : Laws.TableWord.Statement (.mulSk rd rs1 rs2) := fun _ => (pack_and_funct ..).trans rfl
theorem Laws.TableWord.mulISk (rd rs1 : Reg) (imm : Word) : Laws.TableWord.Statement (.mulISk rd rs1 imm) := fun _ => (pack_and_funct ..).trans rfl
theorem Laws.TableWord.mulhSk (rd rs1 rs2 : Reg) : Laws.TableWord.Statement (.mulhSk rd rs1 rs2) := fun _ => (pack_and_funct ..).trans rfl
theorem Laws.TableWord.mulhISk (rd rs1 : Reg) (imm : Word) : Laws.TableWord.Statement (.mulhISk rd rs1 imm) := fun _ => (pack_and_funct ..).trans rfl
theorem Laws.TableWord.divuSk (rd rs1 rs2 : Reg) : Laws.TableWord.Statement (.divuSk rd rs1 rs2) := fun _ => (pack_and_funct ..).trans rfl
theorem Laws.TableWord.divuISk (rd rs1 : Reg) (imm : Word) : Laws.TableWord.Statement (.divuISk rd rs1 imm) := fun _ => (pack_and_funct ..).trans rfl
theorem Laws.TableWord.remuSk (rd rs1 rs2 : Reg) : Laws.TableWord.Statement (.remuSk rd rs1 rs2) := fun _ => (pack_and_funct ..).trans rfl
theorem Laws.TableWord.remuISk (rd rs1 : Reg) (imm : Word) : Laws.TableWord.Statement (.remuISk rd rs1 imm) := fun _ => (pack_and_funct ..).trans rfl
theorem Laws.TableWord.divSk (rd rs1 rs2 : Reg) : Laws.TableWord.Statement (.divSk rd rs1 rs2) := fun _ => (pack_and_funct ..).trans rfl
theorem Laws.TableWord.divISk (rd rs1 : Reg) (imm : Word) : Laws.TableWord.Statement (.divISk rd rs1 imm) := fun _ => (pack_and_funct ..).trans rfl
theorem Laws.TableWord.remSk (rd rs1 rs2 : Reg) : Laws.TableWord.Statement (.remSk rd rs1 rs2) := fun _ => (pack_and_funct ..).trans rfl
theorem Laws.TableWord.remISk (rd rs1 : Reg) (imm : Word) : Laws.TableWord.Statement (.remISk rd rs1 imm) := fun _ => (pack_and_funct ..).trans rfl
theorem Laws.TableWord.shlSk (rd rs1 rs2 : Reg) : Laws.TableWord.Statement (.shlSk rd rs1 rs2) := fun _ => (pack_and_funct ..).trans rfl
theorem Laws.TableWord.shlISk (rd rs1 : Reg) (imm : Word) : Laws.TableWord.Statement (.shlISk rd rs1 imm) := fun _ => (pack_and_funct ..).trans rfl
theorem Laws.TableWord.shrSk (rd rs1 rs2 : Reg) : Laws.TableWord.Statement (.shrSk rd rs1 rs2) := fun _ => (pack_and_funct ..).trans rfl
theorem Laws.TableWord.shrISk (rd rs1 : Reg) (imm : Word) : Laws.TableWord.Statement (.shrISk rd rs1 imm) := fun _ => (pack_and_funct ..).trans rfl
theorem Laws.TableWord.salSk (rd rs1 rs2 : Reg) : Laws.TableWord.Statement (.salSk rd rs1 rs2) := fun _ => (pack_and_funct ..).trans rfl
theorem Laws.TableWord.salISk (rd rs1 : Reg) (imm : Word) : Laws.TableWord.Statement (.salISk rd rs1 imm) := fun _ => (pack_and_funct ..).trans rfl
theorem Laws.TableWord.sarSk (rd rs1 rs2 : Reg) : Laws.TableWord.Statement (.sarSk rd rs1 rs2) := fun _ => (pack_and_funct ..).trans rfl
theorem Laws.TableWord.sarISk (rd rs1 : Reg) (imm : Word) : Laws.TableWord.Statement (.sarISk rd rs1 imm) := fun _ => (pack_and_funct ..).trans rfl
theorem Laws.TableWord.rolSk (rd rs1 rs2 : Reg) : Laws.TableWord.Statement (.rolSk rd rs1 rs2) := fun _ => (pack_and_funct ..).trans rfl
theorem Laws.TableWord.rolISk (rd rs1 : Reg) (imm : Word) : Laws.TableWord.Statement (.rolISk rd rs1 imm) := fun _ => (pack_and_funct ..).trans rfl
theorem Laws.TableWord.rorSk (rd rs1 rs2 : Reg) : Laws.TableWord.Statement (.rorSk rd rs1 rs2) := fun _ => (pack_and_funct ..).trans rfl
theorem Laws.TableWord.rorISk (rd rs1 : Reg) (imm : Word) : Laws.TableWord.Statement (.rorISk rd rs1 imm) := fun _ => (pack_and_funct ..).trans rfl
theorem Laws.TableWord.arithF20Sk (rd rs1 rs2 : Reg) : Laws.TableWord.Statement (.arithF20Sk rd rs1 rs2) := fun _ => (pack_and_funct ..).trans rfl
theorem Laws.TableWord.arithF20ISk (rd rs1 : Reg) (imm : Word) : Laws.TableWord.Statement (.arithF20ISk rd rs1 imm) := fun _ => (pack_and_funct ..).trans rfl
theorem Laws.TableWord.arithF21Sk (rd rs1 rs2 : Reg) : Laws.TableWord.Statement (.arithF21Sk rd rs1 rs2) := fun _ => (pack_and_funct ..).trans rfl
theorem Laws.TableWord.arithF21ISk (rd rs1 : Reg) (imm : Word) : Laws.TableWord.Statement (.arithF21ISk rd rs1 imm) := fun _ => (pack_and_funct ..).trans rfl
theorem Laws.TableWord.seqSk (rd rs1 rs2 : Reg) : Laws.TableWord.Statement (.seqSk rd rs1 rs2) := fun _ => (pack_and_funct ..).trans rfl
theorem Laws.TableWord.seqISk (rd rs1 : Reg) (imm : Word) : Laws.TableWord.Statement (.seqISk rd rs1 imm) := fun _ => (pack_and_funct ..).trans rfl
theorem Laws.TableWord.sneSk (rd rs1 rs2 : Reg) : Laws.TableWord.Statement (.sneSk rd rs1 rs2) := fun _ => (pack_and_funct ..).trans rfl
theorem Laws.TableWord.sneISk (rd rs1 : Reg) (imm : Word) : Laws.TableWord.Statement (.sneISk rd rs1 imm) := fun _ => (pack_and_funct ..).trans rfl
theorem Laws.TableWord.sgtuSk (rd rs1 rs2 : Reg) : Laws.TableWord.Statement (.sgtuSk rd rs1 rs2) := fun _ => (pack_and_funct ..).trans rfl
theorem Laws.TableWord.sgtuISk (rd rs1 : Reg) (imm : Word) : Laws.TableWord.Statement (.sgtuISk rd rs1 imm) := fun _ => (pack_and_funct ..).trans rfl
theorem Laws.TableWord.sgtSk (rd rs1 rs2 : Reg) : Laws.TableWord.Statement (.sgtSk rd rs1 rs2) := fun _ => (pack_and_funct ..).trans rfl
theorem Laws.TableWord.sgtISk (rd rs1 : Reg) (imm : Word) : Laws.TableWord.Statement (.sgtISk rd rs1 imm) := fun _ => (pack_and_funct ..).trans rfl
theorem Laws.TableWord.sgeuSk (rd rs1 rs2 : Reg) : Laws.TableWord.Statement (.sgeuSk rd rs1 rs2) := fun _ => (pack_and_funct ..).trans rfl
theorem Laws.TableWord.sgeuISk (rd rs1 : Reg) (imm : Word) : Laws.TableWord.Statement (.sgeuISk rd rs1 imm) := fun _ => (pack_and_funct ..).trans rfl
theorem Laws.TableWord.sgeSk (rd rs1 rs2 : Reg) : Laws.TableWord.Statement (.sgeSk rd rs1 rs2) := fun _ => (pack_and_funct ..).trans rfl
theorem Laws.TableWord.sgeISk (rd rs1 : Reg) (imm : Word) : Laws.TableWord.Statement (.sgeISk rd rs1 imm) := fun _ => (pack_and_funct ..).trans rfl
theorem Laws.TableWord.sltuSk (rd rs1 rs2 : Reg) : Laws.TableWord.Statement (.sltuSk rd rs1 rs2) := fun _ => (pack_and_funct ..).trans rfl
theorem Laws.TableWord.sltuISk (rd rs1 : Reg) (imm : Word) : Laws.TableWord.Statement (.sltuISk rd rs1 imm) := fun _ => (pack_and_funct ..).trans rfl
theorem Laws.TableWord.sltSk (rd rs1 rs2 : Reg) : Laws.TableWord.Statement (.sltSk rd rs1 rs2) := fun _ => (pack_and_funct ..).trans rfl
theorem Laws.TableWord.sltISk (rd rs1 : Reg) (imm : Word) : Laws.TableWord.Statement (.sltISk rd rs1 imm) := fun _ => (pack_and_funct ..).trans rfl
theorem Laws.TableWord.sleuSk (rd rs1 rs2 : Reg) : Laws.TableWord.Statement (.sleuSk rd rs1 rs2) := fun _ => (pack_and_funct ..).trans rfl
theorem Laws.TableWord.sleuISk (rd rs1 : Reg) (imm : Word) : Laws.TableWord.Statement (.sleuISk rd rs1 imm) := fun _ => (pack_and_funct ..).trans rfl
theorem Laws.TableWord.sleSk (rd rs1 rs2 : Reg) : Laws.TableWord.Statement (.sleSk rd rs1 rs2) := fun _ => (pack_and_funct ..).trans rfl
theorem Laws.TableWord.sleISk (rd rs1 : Reg) (imm : Word) : Laws.TableWord.Statement (.sleISk rd rs1 imm) := fun _ => (pack_and_funct ..).trans rfl
theorem Laws.TableWord.uadd (rd : Reg) (imm : Word) : Laws.TableWord.Statement (.uadd rd imm) := fun _ => (pack_and_upper ..).trans (by rw [upper_lo_and]; rfl)
theorem Laws.TableWord.usub (rd : Reg) (imm : Word) : Laws.TableWord.Statement (.usub rd imm) := fun _ => (pack_and_upper ..).trans (by rw [upper_lo_and]; rfl)
theorem Laws.TableWord.uand (rd : Reg) (imm : Word) : Laws.TableWord.Statement (.uand rd imm) := fun _ => (pack_and_upper ..).trans (by rw [upper_lo_and]; rfl)
theorem Laws.TableWord.uor (rd : Reg) (imm : Word) : Laws.TableWord.Statement (.uor rd imm) := fun _ => (pack_and_upper ..).trans (by rw [upper_lo_and]; rfl)
theorem Laws.TableWord.uxor (rd : Reg) (imm : Word) : Laws.TableWord.Statement (.uxor rd imm) := fun _ => (pack_and_upper ..).trans (by rw [upper_lo_and]; rfl)
theorem Laws.TableWord.umerge (rd : Reg) (imm : Word) : Laws.TableWord.Statement (.umerge rd imm) := fun _ => (pack_and_upper ..).trans (by rw [upper_lo_and]; rfl)
theorem Laws.TableWord.immUpperF6 (rd : Reg) (imm : Word) : Laws.TableWord.Statement (.immUpperF6 rd imm) := fun _ => (pack_and_upper ..).trans (by rw [upper_lo_and]; rfl)
theorem Laws.TableWord.immUpperF7 (rd : Reg) (imm : Word) : Laws.TableWord.Statement (.immUpperF7 rd imm) := fun _ => (pack_and_upper ..).trans (by rw [upper_lo_and]; rfl)
theorem Laws.TableWord.immUpperBadFunct (funct : BitVec 4) (rd : Reg) (imm : Word) : Laws.TableWord.Statement (.immUpperBadFunct funct rd imm) := fun h => by
  have h8 : 8 ≤ funct.toNat := by simp only [WellFormed, wellFormed, Bool.and_eq_true, decide_eq_true_eq] at h; exact h.1
  exact (pack_and_upper_bad ..).trans (by rw [upper_lo_and_bad _ _ h8]; rfl)
theorem Laws.TableWord.lw (rd rs1 rs2 : Reg) : Laws.TableWord.Statement (.lw rd rs1 rs2) := fun _ => (pack_and_funct ..).trans rfl
theorem Laws.TableWord.lwI (rd rs1 : Reg) (imm : Word) : Laws.TableWord.Statement (.lwI rd rs1 imm) := fun _ => (pack_and_funct ..).trans rfl
theorem Laws.TableWord.lhu (rd rs1 rs2 : Reg) : Laws.TableWord.Statement (.lhu rd rs1 rs2) := fun _ => (pack_and_funct ..).trans rfl
theorem Laws.TableWord.lhuI (rd rs1 : Reg) (imm : Word) : Laws.TableWord.Statement (.lhuI rd rs1 imm) := fun _ => (pack_and_funct ..).trans rfl
theorem Laws.TableWord.lh (rd rs1 rs2 : Reg) : Laws.TableWord.Statement (.lh rd rs1 rs2) := fun _ => (pack_and_funct ..).trans rfl
theorem Laws.TableWord.lhI (rd rs1 : Reg) (imm : Word) : Laws.TableWord.Statement (.lhI rd rs1 imm) := fun _ => (pack_and_funct ..).trans rfl
theorem Laws.TableWord.lbu (rd rs1 rs2 : Reg) : Laws.TableWord.Statement (.lbu rd rs1 rs2) := fun _ => (pack_and_funct ..).trans rfl
theorem Laws.TableWord.lbuI (rd rs1 : Reg) (imm : Word) : Laws.TableWord.Statement (.lbuI rd rs1 imm) := fun _ => (pack_and_funct ..).trans rfl
theorem Laws.TableWord.lb (rd rs1 rs2 : Reg) : Laws.TableWord.Statement (.lb rd rs1 rs2) := fun _ => (pack_and_funct ..).trans rfl
theorem Laws.TableWord.lbI (rd rs1 : Reg) (imm : Word) : Laws.TableWord.Statement (.lbI rd rs1 imm) := fun _ => (pack_and_funct ..).trans rfl
theorem Laws.TableWord.sw (rs3 rs1 rs2 : Reg) : Laws.TableWord.Statement (.sw rs3 rs1 rs2) := fun _ => (pack_and_funct ..).trans rfl
theorem Laws.TableWord.swI (rs3 rs1 : Reg) (imm : Word) : Laws.TableWord.Statement (.swI rs3 rs1 imm) := fun _ => (pack_and_funct ..).trans rfl
theorem Laws.TableWord.sh (rs3 rs1 rs2 : Reg) : Laws.TableWord.Statement (.sh rs3 rs1 rs2) := fun _ => (pack_and_funct ..).trans rfl
theorem Laws.TableWord.shI (rs3 rs1 : Reg) (imm : Word) : Laws.TableWord.Statement (.shI rs3 rs1 imm) := fun _ => (pack_and_funct ..).trans rfl
theorem Laws.TableWord.sb (rs3 rs1 rs2 : Reg) : Laws.TableWord.Statement (.sb rs3 rs1 rs2) := fun _ => (pack_and_funct ..).trans rfl
theorem Laws.TableWord.sbI (rs3 rs1 : Reg) (imm : Word) : Laws.TableWord.Statement (.sbI rs3 rs1 imm) := fun _ => (pack_and_funct ..).trans rfl
theorem Laws.TableWord.call (rd rs2 : Reg) : Laws.TableWord.Statement (.call rd rs2) := fun _ => (pack_and_call ..).trans rfl
theorem Laws.TableWord.callI (rd : Reg) (imm : Word) : Laws.TableWord.Statement (.callI rd imm) := fun _ => (pack_and_call ..).trans (by rw [func_lo_and]; rfl)
theorem Laws.TableWord.ret (rs1 : Reg) : Laws.TableWord.Statement (.ret rs1) := fun _ => (pack_and_ret ..).trans rfl
theorem Laws.TableWord.io (rd rs1 rs2 rs3 : Reg) : Laws.TableWord.Statement (.io rd rs1 rs2 rs3) := fun _ => (pack_and_io ..).trans rfl
theorem Laws.TableWord.ioI (rd rs1 : Reg) (imm : Word) (rs3 : Reg) : Laws.TableWord.Statement (.ioI rd rs1 imm rs3) := fun _ => (pack_and_io ..).trans rfl
theorem Laws.TableWord.ioOther (funct : BitVec 8) (rd rs1 : Reg) (src : Src2) (rs3 : Reg) : Laws.TableWord.Statement (.ioOther funct rd rs1 src rs3) := fun _ => by
  cases src <;> exact (pack_and_op ..).trans rfl
theorem Laws.TableWord.compressed : Laws.TableWord.Statement (.compressed) := fun _ => rfl

end Sys2Proof
end

