-- ==== Sys2Proof/Tests/Slice0.lean ====
section
/-! SUPPORT. Tests: the well-formedness smoke, words written out from the spec's encodings, values from the spec's own examples
(95_test_vectors.md and the rules), one step each, and a witness for every statement of Obligations.lean that has hypotheses. -/

namespace Sys2Proof.Tests

open Sys2Proof Sys2Proof.Machine

/-! ## WellFormed smoke: one ill-formed term for each check -/

theorem test_wf_A_high : wellFormed (.addI 3 1 4096) = false := by decide
theorem test_wf_A_low : wellFormed (.lwI 3 1 (-4097)) = false := by decide
theorem test_wf_A_edges : wellFormed (.seqISk 3 1 4095) = true ∧ wellFormed (.lbI 3 1 (-4096)) = true := by decide
theorem test_wf_S_high : wellFormed (.swI 5 1 4096) = false := by decide
theorem test_wf_F_odd : wellFormed (.callI 16 3) = false := by decide
theorem test_wf_F_high : wellFormed (.callI 16 2048) = false := by decide
theorem test_wf_F_edges : wellFormed (.callI 16 2046) = true ∧ wellFormed (.callI 16 (-2048)) = true := by decide
theorem test_wf_I_high : wellFormed (.ioI 0 1 32 0) = false := by decide
theorem test_wf_U_low_bits : wellFormed (.uadd 3 0xABCDF000) = false := by decide
theorem test_wf_badFunct_low : wellFormed (.immUpperBadFunct 7 3 0) = false := by decide
theorem test_wf_badFunct_imm : wellFormed (.immUpperBadFunct 8 3 1) = false := by decide
theorem test_wf_ioOther_zero : wellFormed (.ioOther 0 0 1 (.reg 2) 0) = false := by decide
theorem test_wf_ioOther_imm : wellFormed (.ioOther 1 0 1 (.imm 32) 0) = false := by decide

/-! ## Decoding: every constructor, its word written out from the spec's encoding -/

/-- Format R (30_encoding.md R121) with rd = 3, rs1 = 1, rs2 = 4: the words of 41_arith.md R210 to R241. -/
theorem test_decode_arith_1 : ∀ p ∈ ([
    (0x00204038, .add 3 1 4), (0x00204238, .sub 3 1 4), (0x00204438, .and 3 1 4), (0x00204638, .or 3 1 4),
    (0x00204838, .xor 3 1 4), (0x00204A38, .not 3 1 4), (0x00204C38, .mulu 3 1 4), (0x00204E38, .mulhu 3 1 4),
    (0x00205038, .mul 3 1 4), (0x00205238, .mulh 3 1 4), (0x00205438, .divu 3 1 4), (0x00205638, .remu 3 1 4),
    (0x00205838, .div 3 1 4), (0x00205A38, .rem 3 1 4), (0x00205C38, .shl 3 1 4), (0x00205E38, .shr 3 1 4)] :
    List (Word × Instr)), decode p.1 = .ok p.2 := by decide

/-- Format R (30_encoding.md R121) with rd = 3, rs1 = 1, rs2 = 4: the words of 41_arith.md R210 to R241. -/
theorem test_decode_arith_2 : ∀ p ∈ ([
    (0x00206038, .sal 3 1 4), (0x00206238, .sar 3 1 4), (0x00206438, .rol 3 1 4), (0x00206638, .ror 3 1 4),
    (0x00206838, .arithF20 3 1 4), (0x00206A38, .arithF21 3 1 4), (0x00206C38, .seq 3 1 4), (0x00206E38, .sne 3 1 4),
    (0x00207038, .sgtu 3 1 4), (0x00207238, .sgt 3 1 4), (0x00207438, .sgeu 3 1 4), (0x00207638, .sge 3 1 4),
    (0x00207838, .sltu 3 1 4), (0x00207A38, .slt 3 1 4), (0x00207C38, .sleu 3 1 4), (0x00207E38, .sle 3 1 4)] :
    List (Word × Instr)), decode p.1 = .ok p.2 := by decide

/-- Format A (R122) with rd = 3, rs1 = 1, immediate -1: the words of 41_arith.md R210 to R241. -/
theorem test_decode_arithI_1 : ∀ p ∈ ([
    (0xFFF84039, .addI 3 1 (-1)), (0xFFF84239, .subI 3 1 (-1)), (0xFFF84439, .andI 3 1 (-1)),
    (0xFFF84639, .orI 3 1 (-1)), (0xFFF84839, .xorI 3 1 (-1)), (0xFFF84A39, .notI 3 1 (-1)),
    (0xFFF84C39, .muluI 3 1 (-1)), (0xFFF84E39, .mulhuI 3 1 (-1)), (0xFFF85039, .mulI 3 1 (-1)),
    (0xFFF85239, .mulhI 3 1 (-1)), (0xFFF85439, .divuI 3 1 (-1)), (0xFFF85639, .remuI 3 1 (-1)),
    (0xFFF85839, .divI 3 1 (-1)), (0xFFF85A39, .remI 3 1 (-1)), (0xFFF85C39, .shlI 3 1 (-1)),
    (0xFFF85E39, .shrI 3 1 (-1))] :
    List (Word × Instr)), decode p.1 = .ok p.2 := by decide

/-- Format A (R122) with rd = 3, rs1 = 1, immediate -1: the words of 41_arith.md R210 to R241. -/
theorem test_decode_arithI_2 : ∀ p ∈ ([
    (0xFFF86039, .salI 3 1 (-1)), (0xFFF86239, .sarI 3 1 (-1)), (0xFFF86439, .rolI 3 1 (-1)),
    (0xFFF86639, .rorI 3 1 (-1)), (0xFFF86839, .arithF20I 3 1 (-1)), (0xFFF86A39, .arithF21I 3 1 (-1)),
    (0xFFF86C39, .seqI 3 1 (-1)), (0xFFF86E39, .sneI 3 1 (-1)), (0xFFF87039, .sgtuI 3 1 (-1)),
    (0xFFF87239, .sgtI 3 1 (-1)), (0xFFF87439, .sgeuI 3 1 (-1)), (0xFFF87639, .sgeI 3 1 (-1)),
    (0xFFF87839, .sltuI 3 1 (-1)), (0xFFF87A39, .sltI 3 1 (-1)), (0xFFF87C39, .sleuI 3 1 (-1)),
    (0xFFF87E39, .sleI 3 1 (-1))] :
    List (Word × Instr)), decode p.1 = .ok p.2 := by decide

/-- ArithSkip in format R. -/
theorem test_decode_arithSk_1 : ∀ p ∈ ([
    (0x0020403C, .addSk 3 1 4), (0x0020423C, .subSk 3 1 4), (0x0020443C, .andSk 3 1 4), (0x0020463C, .orSk 3 1 4),
    (0x0020483C, .xorSk 3 1 4), (0x00204A3C, .notSk 3 1 4), (0x00204C3C, .muluSk 3 1 4), (0x00204E3C, .mulhuSk 3 1 4),
    (0x0020503C, .mulSk 3 1 4), (0x0020523C, .mulhSk 3 1 4), (0x0020543C, .divuSk 3 1 4), (0x0020563C, .remuSk 3 1 4),
    (0x0020583C, .divSk 3 1 4), (0x00205A3C, .remSk 3 1 4), (0x00205C3C, .shlSk 3 1 4), (0x00205E3C, .shrSk 3 1 4)] :
    List (Word × Instr)), decode p.1 = .ok p.2 := by decide

/-- ArithSkip in format R. -/
theorem test_decode_arithSk_2 : ∀ p ∈ ([
    (0x0020603C, .salSk 3 1 4), (0x0020623C, .sarSk 3 1 4), (0x0020643C, .rolSk 3 1 4), (0x0020663C, .rorSk 3 1 4),
    (0x0020683C, .arithF20Sk 3 1 4), (0x00206A3C, .arithF21Sk 3 1 4), (0x00206C3C, .seqSk 3 1 4),
    (0x00206E3C, .sneSk 3 1 4), (0x0020703C, .sgtuSk 3 1 4), (0x0020723C, .sgtSk 3 1 4), (0x0020743C, .sgeuSk 3 1 4),
    (0x0020763C, .sgeSk 3 1 4), (0x0020783C, .sltuSk 3 1 4), (0x00207A3C, .sltSk 3 1 4), (0x00207C3C, .sleuSk 3 1 4),
    (0x00207E3C, .sleSk 3 1 4)] :
    List (Word × Instr)), decode p.1 = .ok p.2 := by decide

/-- ArithSkip in format A, immediate -1. -/
theorem test_decode_arithISk_1 : ∀ p ∈ ([
    (0xFFF8403D, .addISk 3 1 (-1)), (0xFFF8423D, .subISk 3 1 (-1)), (0xFFF8443D, .andISk 3 1 (-1)),
    (0xFFF8463D, .orISk 3 1 (-1)), (0xFFF8483D, .xorISk 3 1 (-1)), (0xFFF84A3D, .notISk 3 1 (-1)),
    (0xFFF84C3D, .muluISk 3 1 (-1)), (0xFFF84E3D, .mulhuISk 3 1 (-1)), (0xFFF8503D, .mulISk 3 1 (-1)),
    (0xFFF8523D, .mulhISk 3 1 (-1)), (0xFFF8543D, .divuISk 3 1 (-1)), (0xFFF8563D, .remuISk 3 1 (-1)),
    (0xFFF8583D, .divISk 3 1 (-1)), (0xFFF85A3D, .remISk 3 1 (-1)), (0xFFF85C3D, .shlISk 3 1 (-1)),
    (0xFFF85E3D, .shrISk 3 1 (-1))] :
    List (Word × Instr)), decode p.1 = .ok p.2 := by decide

/-- ArithSkip in format A, immediate -1. -/
theorem test_decode_arithISk_2 : ∀ p ∈ ([
    (0xFFF8603D, .salISk 3 1 (-1)), (0xFFF8623D, .sarISk 3 1 (-1)), (0xFFF8643D, .rolISk 3 1 (-1)),
    (0xFFF8663D, .rorISk 3 1 (-1)), (0xFFF8683D, .arithF20ISk 3 1 (-1)), (0xFFF86A3D, .arithF21ISk 3 1 (-1)),
    (0xFFF86C3D, .seqISk 3 1 (-1)), (0xFFF86E3D, .sneISk 3 1 (-1)), (0xFFF8703D, .sgtuISk 3 1 (-1)),
    (0xFFF8723D, .sgtISk 3 1 (-1)), (0xFFF8743D, .sgeuISk 3 1 (-1)), (0xFFF8763D, .sgeISk 3 1 (-1)),
    (0xFFF8783D, .sltuISk 3 1 (-1)), (0xFFF87A3D, .sltISk 3 1 (-1)), (0xFFF87C3D, .sleuISk 3 1 (-1)),
    (0xFFF87E3D, .sleISk 3 1 (-1))] :
    List (Word × Instr)), decode p.1 = .ok p.2 := by decide

/-- Format U (R126) with rd = 3, immediate 0xABCDE000, bit 0 set: the words of 42_immupper.md R252 to R259. -/
theorem test_decode_immUpper_1 : ∀ p ∈ ([
    (0xABCDE03F, .uadd 3 0xABCDE000), (0xABCDE23F, .usub 3 0xABCDE000), (0xABCDE43F, .uand 3 0xABCDE000),
    (0xABCDE63F, .uor 3 0xABCDE000), (0xABCDE83F, .uxor 3 0xABCDE000), (0xABCDEA3F, .umerge 3 0xABCDE000),
    (0xABCDEC3F, .immUpperF6 3 0xABCDE000), (0xABCDEE3F, .immUpperF7 3 0xABCDE000),
    (0xABCDFE3F, .immUpperBadFunct 15 3 0xABCDE000)] :
    List (Word × Instr)), decode p.1 = .ok p.2 := by decide

/-- Loads, rd = 3, rs1 = 1, rs2 = 4 or immediate 4: the words of 43_loadstore.md R272 to R276. -/
theorem test_decode_load_1 : ∀ p ∈ ([
    (0x00204032, .lw 3 1 4), (0x00204033, .lwI 3 1 4), (0x00204232, .lhu 3 1 4), (0x00204233, .lhuI 3 1 4),
    (0x00204432, .lh 3 1 4), (0x00204433, .lhI 3 1 4), (0x00204632, .lbu 3 1 4), (0x00204633, .lbuI 3 1 4),
    (0x00204832, .lb 3 1 4), (0x00204833, .lbI 3 1 4)] :
    List (Word × Instr)), decode p.1 = .ok p.2 := by decide

/-- Stores (R121, R123), data 5, base 1, rs2 = 4 or immediate -4: 43_loadstore.md R281 to R283. -/
theorem test_decode_store_1 : ∀ p ∈ ([
    (0x05204006, .sw 5 1 4), (0xE5F841C7, .swI 5 1 (-4)), (0x05204206, .sh 5 1 4), (0xE5F843C7, .shI 5 1 (-4)),
    (0x05204406, .sb 5 1 4), (0xE5F845C7, .sbI 5 1 (-4))] :
    List (Word × Instr)), decode p.1 = .ok p.2 := by decide

/-- Func, Io and Compressed: the words of 44_func.md R301, R302, 45_io.md R321, 46_compressed.md R340. -/
theorem test_decode_others_1 : ∀ p ∈ ([
    (0x00200104, .call 16 4), (0x01FF41F5, .callI 31 (-6)), (0x00040204, .ret 16), (0x0520403A, .io 3 1 4 5),
    (0x0008400B, .ioI 0 1 1 0), (0x20084A0B, .ioOther 0x25 0 1 (.imm 1) 0), (0x00000000, .compressed)] :
    List (Word × Instr)), decode p.1 = .ok p.2 := by decide

/-- TV-D1: the immediates of the word 0xA5A5A5A5. -/
theorem test_immediates : immA 0xA5A5A5A5 = 0xFFFFF4B4 ∧ immS 0xA5A5A5A5 = 0xFFFFF69A ∧
    immF .twelve 0xA5A5A5A5 = 0xFFFFFD2C ∧ immI 0xA5A5A5A5 = 0x14 ∧ immU 0xA5A5A5A5 = 0xA5A5A000 := by decide

/-- TV-D2, TV-D5, TV-D16: all fields of a word. -/
theorem test_fields : decodeFields Config.reference 0xA5A5A5A5 = ⟨.func, true, 0, 26, 22, 20, 5, 0xFFFFFD2C⟩ ∧
    decodeFields Config.reference 0x5A5A5A5A = ⟨.io, false, 77, 5, 9, 11, 26, 0xB⟩ ∧
    decodeFields Config.reference 0x1F204038 = ⟨.arith, false, 7936, 3, 1, 4, 31, 0x3E4⟩ := by decide

/-- TV-D15, TV-D18 and 30_encoding.md R130: bits a format ignores. -/
theorem test_ignored : decode 0xABCDE03E = .ok (.uadd 3 0xABCDE000) ∧ decode 0xFF20403C = .ok (.addSk 3 1 4) ∧
    decode 0xFFFC3FF5 = .ok (.ret 16) ∧ decode 0xFFFFFFF1 = .ok .compressed := by decide

/-- 30_encoding.md R128: the words a unit rejects by their funct. -/
theorem test_rejected : decode 0x01204038 = .error (.arithmeticFunct 0x100) ∧
    decode 0x20204038 = .error (.arithmeticFunct 0x20) ∧ decode 0x00204A33 = .error (.loadFunct 5) ∧
    decode 0x05004647 = .error (.storeFunct 3) := by decide

/-- 20_memory.md R53, 30_encoding.md R101: the first byte is the least significant. -/
theorem test_bytes : decodeTableWord 32 0x00204038 = some (.add 3 1 4) ∧
    decodeBytes [0x39, 0x00, 0x28, 0x00, 0xFF] = .ok (.addI 3 0 5, [0xFF]) ∧
    decodeBytes [0x39, 0x00, 0x28] = .error .truncated := by decide

/-! ## The arithmetic functions (95_test_vectors.md section 3) -/

theorem test_alu_add_sub : aluAdd 0xFFFFFFFF 1 = 0 ∧ aluAdd 0x7FFFFFFF 1 = 0x80000000 ∧ aluSub 3 10 = 7 ∧
    aluSub 3 1 = 0xFFFFFFFE := by decide
theorem test_alu_logic : aluAnd 0xF0F0F0F0 0xFF00FF00 = 0xF000F000 ∧ aluOr 0xF0F0F0F0 0x0F0F0F0F = 0xFFFFFFFF ∧
    aluXor 0xFFFF0000 0xFF00FF00 = 0x00FFFF00 ∧ aluNot 0 0x1234 = 0xFFFFFFFF := by decide
theorem test_alu_mul : aluMulu 0xFFFFFFFF 0xFFFFFFFF = 1 ∧ aluMulhu 0xFFFFFFFF 0xFFFFFFFF = 0xFFFFFFFE ∧
    aluMul 0xFFFFFFFE 3 = 0xFFFFFFFA ∧ aluMulh 0xFFFFFFFE 3 = 0xFFFFFFFF ∧
    aluMulh 0x80000000 0x80000000 = 0x40000000 ∧ aluMulh 0xFFFFFFFF 0xFFFFFFFF = 0 := by decide
theorem test_alu_div : aluDivu 7 0 = 0xFFFFFFFF ∧ aluRemu 7 0 = 7 ∧ aluDivu 7 2 = 3 ∧
    aluDiv 0xFFFFFFF9 2 = 0xFFFFFFFD ∧ aluDiv 7 0xFFFFFFFE = 0xFFFFFFFD ∧ aluDiv 7 0 = 0xFFFFFFFF ∧
    aluDiv 0x80000000 0xFFFFFFFF = 0x80000000 := by decide
theorem test_alu_rem : aluRem 0xFFFFFFF9 2 = 0xFFFFFFFF ∧ aluRem 7 0xFFFFFFFE = 1 ∧
    aluRem 0xFFFFFFF9 0 = 0xFFFFFFF9 ∧ aluRem 0x80000000 0xFFFFFFFF = 0 := by decide
theorem test_alu_shift : aluShl 0x1F 1 0x1F = 0x80000000 ∧ aluShl 0x1F 1 0x20 = 1 ∧ aluShl 0x1F 3 0xFFFFFFE1 = 6 ∧
    aluShr 0x1F 0x80000000 0x1F = 1 ∧ aluSar 0x1F 0x80000000 0x1F = 0xFFFFFFFF := by decide
theorem test_alu_rotate : aluRol 0x1F 0x80000001 1 = 3 ∧ aluRor 0x1F 0x80000001 1 = 0xC0000000 ∧ aluRol 0x1F 5 32 = 5 := by
  decide
/-- 41_arith.md R205, R224 to R229 under another SHIFT_MASK: an amount of 32 shifts every bit out and rotates by nothing (log 6). -/
theorem test_alu_wide_mask : aluShl 0x3F 1 0x20 = 0 ∧ aluSar 0x3F 0x80000000 0x20 = 0xFFFFFFFF ∧ aluRol 0x3F 5 0x20 = 5 := by
  decide
theorem test_alu_compare : aluSgtu 0xFFFFFFFF 1 = 1 ∧ aluSgt 0xFFFFFFFF 1 = 0 ∧ aluSltu 0xFFFFFFFF 1 = 0 ∧
    aluSlt 0xFFFFFFFF 1 = 1 ∧ aluSeq 5 5 = 1 ∧ aluSge 5 5 = 1 ∧ aluSleu 6 5 = 0 := by decide
/-- 42_immupper.md R252, R253, R257. -/
theorem test_immu : immuAdd 0x1234 0xABCDE000 = 0xABCDF234 ∧ immuSub 0x1234 0xABCDE000 = 0x54323234 ∧
    immuMerge 0xFFFFF678 0x12344000 = 0x12345678 := by decide

/-! ## Small states -/

/-- Reset with another memory. -/
def machine (m : Memory) : State := { State.reset with mem := m }

/-- 64 flat bytes with a word at 0. -/
def flatWith (w : Word) : Memory := ({ backend := .flat 64, cells := [], blocks := [] } : Memory).place 0 w

/-- Reset about to run a word. -/
def running (w : Word) : State := machine (flatWith w)

/-- A split memory with a 16-byte image of zeros and block 0 allocated. -/
def splitMem : Memory := { backend := .split 16, cells := [], blocks := [0] }

/-- What holds of the next state, if there is one. -/
def after (o : Result) (p : State → Bool) : Bool :=
  match o with
  | .next t => p t
  | .fault _ => false
  | .refused _ => false

/-- Reset after one push. -/
def deeper : State := { State.reset with regs := State.reset.regs.call }

/-- Reset with a supplied device that has one function. -/
def supplied (p : IoProgram) : State := { State.reset with io := { device := .supplied [] p, output := [] } }

/-- A call of no meaning but to a device. -/
def someCall : IoCall := { funct := 0, s1 := 12, s2 := 16, s3 := 0 }

/-! ## One step -/

/-- 41_arith.md R200: ADDI r3, r0, 5. -/
theorem test_step_addi : after (step (running 0x00280039)) (fun t => t.reg 3 = 5 ∧ t.pc = 1) = true := by decide
/-- TV-L6: ADDI r0, r0, 5 leaves selector 0 reading 0. -/
theorem test_step_zero : after (step (running 0x00280009)) (fun t => t.reg 0 = 0 ∧ t.pc = 1) = true := by decide
/-- 40_cycle.md R161: ADDI r2, r2, k goes to pc0 + k. -/
theorem test_step_jump : after (exec (.addI 2 2 5) ((running 0).setPc 7)) (fun t => t.pc = 12) = true := by decide
/-- 41_arith.md R201: SNE.SK r0, r1, r4 skips exactly when the operands differ. -/
theorem test_step_skip : after (step (running 0x00206E0C)) (fun t => t.pc = 1) = true ∧
    after (step ((running 0x00206E0C).setReg 4 1)) (fun t => t.pc = 2) = true := by decide
/-- 42_immupper.md R250: UMERGE r5 after ADDI r5, r0, -2440. -/
theorem test_step_umerge : after (step ((running 0x12344A5F).setReg 5 0xFFFFF678)) (fun t => t.reg 5 = 0x12345678) = true := by
  decide
/-- 43_loadstore.md R271: the word 0x8001FF7F read as its parts. -/
theorem test_load_parts : after (exec (.lh 3 0 0) (running 0x8001FF7F)) (fun t => t.reg 3 = 0xFFFFFF7F) = true ∧
    after (exec (.lhuI 3 0 2) (running 0x8001FF7F)) (fun t => t.reg 3 = 0x8001) = true ∧
    after (exec (.lbI 3 0 3) (running 0x8001FF7F)) (fun t => t.reg 3 = 0xFFFFFF80) = true ∧
    after (exec (.lbuI 3 0 1) (running 0x8001FF7F)) (fun t => t.reg 3 = 0xFF) = true := by decide
/-- TV-M1: SWI r5, r1, 4 stores D2 04 00 00 at 104. -/
theorem test_store_word : after (exec (.swI 5 1 4) (((machine { splitMem with blocks := [] }).setReg 1 100).setReg 5 1234))
    (fun t => t.mem.byteAt 104 = 0xD2 ∧ t.mem.byteAt 105 = 4 ∧ t.mem.blocks = [0] ∧ t.mem.cells.length = 2) = true := by decide
/-- TV-L4: with a 16-byte image, address 15 is the image's and address 16 the data region's. -/
theorem test_split_edge : splitMem.write .fault .byte 15 0 = .error .outOfBounds ∧
    ({ splitMem with blocks := [] } : Memory).read .byte 16 = .error .uninit ∧
    ({ splitMem with blocks := [] } : Memory).read .byte 15 = .ok 0 := by decide
/-- IMAGE_WRITE_POLICY ignore (00_scope.md R5; log 7): the write at 15 completes and changes nothing, the one at 16 stores. -/
theorem test_image_ignore : splitMem.write .ignore .byte 15 7 = .ok splitMem ∧
    splitMem.write .ignore .half 15 7 = .error .unaligned ∧
    (splitMem.write .ignore .byte 16 7).map (fun m => m.byteAt 16) = .ok 7 := by decide
/-- TV-F1: CALLI r16, 4 at pc 0. -/
theorem test_step_call : after (step (running 0x00008105)) (fun t => t.pc = 4 ∧ t.regs.depth = 3 ∧ t.reg 16 = 0) = true := by
  decide
/-- 44_func.md R302: at depth 3 with r16 = 1, RET r16 leaves depth 2 and pc 2. -/
theorem test_step_ret : after (exec (.ret 16) (deeper.setReg 16 1)) (fun t => t.pc = 2 ∧ t.regs.depth = 2) = true := by decide
/-- 44_func.md R302, 60_exceptions.md R406. -/
theorem test_ret_underflow : exec (.ret 16) State.reset = .fault .windowUnderflow := rfl
/-- 45_io.md R322: IOI r0, 0, r1, 1, r0 with x[r1] = 0x141 appends the byte 0x41 to stream 1. -/
theorem test_step_io : after (step ((running 0x0008400B).setReg 1 0x141))
    (fun t => t.io.output = [{ stream := 1, byte := 0x41 }] ∧ t.pc = 1) = true := by decide
/-- 45_io.md R320: a device that answers the word of memory at s1, one that fails where that read fails, one that emits a slice. -/
theorem test_device_reads : (IoProgram.answer (.read .word .s1)).reply .fault { someCall with s1 := 0 } (flatWith 0x12345678) =
      .ok 0x12345678 [] [] ∧
    (IoProgram.answer (.read .word .s1)).reply .fault someCall State.reset.mem = .err (.memory .uninit) ∧
    (IoProgram.emitSlice (.const 1) (.const 62) .s2 (.answer (.const 0))).reply .fault someCall (flatWith 0) =
      .ok 0 [] [⟨1, 0⟩, ⟨1, 0⟩] := by decide
/-- A device that looks first whether its write at s1 would fail. -/
def cautious : IoProgram :=
  .ifWriteFails .byte .s1 .outOfBounds (.answer (.const 9)) (.store .byte .s1 .s2 (.answer .s2))
/-- 45_io.md R320, R325. -/
theorem test_device_checks : cautious.reply .fault someCall splitMem = .ok 9 [] [] ∧
    cautious.reply .ignore someCall splitMem = .ok 16 [⟨.byte, 12, 16⟩] [] ∧
    (IoProgram.ifFails (.read .byte .s2) .uninit (.answer (.const 1)) (.answer (.const 2))).reply .fault someCall splitMem =
      .ok 2 [] [] ∧
    (IoProgram.answer (.sliceLen .s1 .s2)).reply .fault someCall splitMem = .ok 4 [] [] := by decide
/-- 45_io.md R320: a device's own state: the next call sees its next function. -/
theorem test_device_turns : (IoDevice.supplied [.answer .s1] (.answer .s2)).afterCall = .supplied [] (.answer .s2) := rfl
/-- 46_compressed.md R340: the zero word. -/
theorem test_step_halt : step (running 0) = .fault .compressedUnsupported := rfl
/-- 40_cycle.md R152: at reset nothing has been placed. -/
theorem test_step_reset : step State.reset = .fault (.memory .uninit) := rfl
/-- A word placed at reset is the next instruction. -/
theorem test_place_reset : after (step (State.reset.withFetchWord 32 0x00280039)) (fun t => t.reg 3 = 5) = true := by decide

/-! ## Witnesses: the hypotheses of each statement, met together -/

theorem test_witness_stepKeepsInvariant : (running 0x00280039).Inv ∧
    after (step (running 0x00280039)) (fun _ => true) = true :=
  ⟨⟨by decide, fun n h => (by cases h)⟩, by decide⟩
theorem test_witness_inv_bounded : ({ deeper with cfg := { Config.reference with windowDepthMax := some 3 } } : State).Inv :=
  ⟨by decide, fun n h => by cases h; decide⟩
theorem test_witness_construct_bad : ([0x39] : List Byte).length % 4 ≠ 0 := by decide
theorem test_witness_construct_split : ∀ image : List Byte, BackendArg.split [1, 2, 3, 4] = .split image →
    image.length % 4 = 0 := fun image h => by cases h; decide
theorem test_witness_construct_flat : ∀ image : List Byte, BackendArg.flat 64 = .split image → image.length % 4 = 0 :=
  fun image h => by cases h
theorem test_witness_construct_sparse : ∀ image : List Byte, BackendArg.sparse = .split image → image.length % 4 = 0 :=
  fun image h => by cases h
theorem test_witness_return : State.reset.regs.depth ≤ 2 ∧ 2 < deeper.regs.depth := by decide
theorem test_witness_decodeEncode : WellFormed (.addI 3 1 (-4096)) ∧ WellFormed (.swI 5 1 4095) ∧
    WellFormed (.callI 16 2046) ∧ WellFormed (.uadd 3 0xFFFFE000) ∧ WellFormed (.immUpperBadFunct 8 3 0) ∧
    WellFormed (.ioOther 255 0 1 (.imm 31) 0) := by decide
theorem test_witness_decodeYields : decode 0xFFF84039 = .ok (.addI 3 1 (-1)) := by decide
theorem test_witness_immAIU : (decodeFields Config.reference 0x80000001).opcode = .compressed ∧
    (decodeFields Config.reference 0x7FF80009).opcode = .arith ∧ (decodeFields Config.reference 0x80000003).opcode = .load ∧
    (decodeFields Config.reference 0x7FF8000D).opcode = .arithSkip ∧ (decodeFields Config.reference 0x00F8000B).opcode = .io ∧
    (decodeFields Config.reference 0xFFFFE00E).opcode = .immUpper := by decide
theorem test_witness_immSF : (decodeFields Config.reference 0x80000007).opcode = .store ∧
    (decodeFields Config.reference 0x01FFE005).opcode = .func ∧ Config.reference.fimmWidth = .twelve ∧
    (decodeFields { Config.reference with fimmWidth := .eleven } 0x01FFE005).imm = 0xFFFFFFFE := by decide
/-- Other maps than the reference ones: opcodes 4 and 6 change places, functs 0 and 1 of the ALU and of ImmUpper too. -/
def otherMaps : Config :=
  { Config.reference with
    opcodeMap := #v[.compressed, .load, .func, .store, .arithSkip, .io, .arith, .immUpper]
    aluFunctMap := (Config.reference.aluFunctMap.set 0 .sub).set 1 .add
    immuFunctMap := (Config.reference.immuFunctMap.set 0 .sub).set 1 .add }
theorem test_other_maps : decodeWith otherMaps 0x00204038 = .ok (.subSk 3 1 4) ∧
    decodeWith otherMaps 0x0020423C = .ok (.add 3 1 4) ∧ decodeWith otherMaps 0xABCDE03F = .ok (.usub 3 0xABCDE000) := by decide
theorem test_witness_maps : otherMaps.aluFunctMap.toList[(decodeFields otherMaps 0x0020403C).funct.toNat]? = some .sub ∧
    (decodeFields otherMaps 0x0020403C).opcode = .arith ∧ (decodeFields otherMaps 0x00204038).opcode = .arithSkip ∧
    otherMaps.immuFunctMap.toList[(decodeFields otherMaps 0xABCDE03F).funct.toNat]? = some .sub ∧
    (decodeFields otherMaps 0xABCDE03F).opcode = .immUpper := by decide
theorem test_witness_reference_parts : ({ Config.reference with pcUnit := .byte } : Config).shiftMask =
      Config.reference.shiftMask ∧ (running 0).cfg.opcodeMap = Config.reference.opcodeMap := by decide
theorem test_witness_ignored_load : (decodeFields Config.reference 0x00204032).opcode = .load ∧ fieldNat 0x00204032 0 1 = 0 ∧
    (0x00204032 : Word) &&& 0x00FFFFFF = 0xFF204032 &&& 0x00FFFFFF := by decide
theorem test_witness_ignored_skip : (decodeFields Config.reference 0x0020403C).opcode = .arithSkip ∧
    fieldNat 0x0020403C 0 1 = 0 ∧ (0x0020403C : Word) &&& 0x00FFFFFF = 0xFF20403C &&& 0x00FFFFFF := by decide
theorem test_witness_ignored_store : (decodeFields Config.reference 0x05204006).opcode = .store ∧ fieldNat 0x05204006 0 1 = 0 ∧
    (0x05204006 : Word) &&& 0x1FFFFE0F = 0xE52041F6 &&& 0x1FFFFE0F := by decide
theorem test_witness_ignored_call : (decodeFields Config.reference 0x00200104).opcode = .func ∧ fieldNat 0x00200104 9 1 = 0 ∧
    fieldNat 0x00200104 0 1 = 0 ∧ (0x00200104 : Word) &&& 0x00F803FF = 0xFF27FD04 &&& 0x00F803FF := by decide
theorem test_witness_ignored_calli : (decodeFields Config.reference 0x00008105).opcode = .func ∧ fieldNat 0x00008105 9 1 = 0 ∧
    fieldNat 0x00008105 0 1 = 1 ∧ (0x00008105 : Word) &&& 0x01FFC3FF = 0xFE00BD05 &&& 0x01FFC3FF := by decide
theorem test_witness_ignored_ret : (decodeFields Config.reference 0x00040204).opcode = .func ∧ fieldNat 0x00040204 9 1 = 1 ∧
    (0x00040204 : Word) &&& 0x0007C20E = 0xFFFC3FF5 &&& 0x0007C20E := by decide
theorem test_witness_ignored_upper : (decodeFields Config.reference 0xABCDE03F).opcode = .immUpper ∧
    (decodeFields Config.reference 0).opcode = .compressed ∧
    (0xABCDE03F : Word) &&& 0xFFFFFFFE = 0xABCDE03E &&& 0xFFFFFFFE ∧
    (0 : Word) &&& 0x0000000E = 0xFFFFFFF1 &&& 0x0000000E := by decide
/-- The word at the pc of `running 0x00280039`, as StepRunsDecodedInstruction reads it. -/
theorem test_witness_stepRuns : ReadableAt (running 0x00280039).mem .word (codeAddress Config.reference (running 0x00280039).pc) ∧
    (0x00280039 : Word).toNat = leSum (running 0x00280039).mem (codeAddress Config.reference (running 0x00280039).pc) 4 ∧
    decodeWith Config.reference 0x00280039 = .ok (.addI 3 0 5) :=
  ⟨⟨by decide, show 0 + 4 ≤ 64 by decide⟩, by decide, by decide⟩
theorem test_witness_fetch_unaligned : codeAddress { Config.reference with pcUnit := .byte } 2 % 4 ≠ 0 := by decide
theorem test_witness_fetch_range : codeAddress Config.reference State.reset.pc % 4 = 0 ∧
    ¬ ReadRange State.reset.mem .word (codeAddress Config.reference State.reset.pc) :=
  ⟨by decide, show ¬ (0 < 0 ∨ 0 / 4096 ∈ ([] : List Nat)) by decide⟩
theorem test_witness_placed : decodeWith Config.reference (BitVec.ofNat 32 (0x00280039 % 2 ^ 32)) =
    .ok (.addI 3 0 5) := by decide
/-- A fetched word for the statements about `s.fetch = .ok w`, one for each side they speak of. -/
theorem test_witness_fetched : (running 0x1F204038).fetch = .ok 0x1F204038 ∧ (running 0x00204A33).fetch = .ok 0x00204A33 ∧
    (running 0x05004647).fetch = .ok 0x05004647 ∧ (running 0xFFFFFFFF).fetch = .ok 0xFFFFFFFF ∧
    (running 0).fetch = .ok 0 := by decide
theorem test_witness_arithFunct : (decodeFields Config.reference 0x1F204038).opcode = .arith ∧
    32 ≤ (decodeFields Config.reference 0x20204038).funct.toNat ∧
    (decodeFields Config.reference 0xFF20403C).opcode = .arithSkip := by decide
theorem test_witness_constant : (3 : Reg) ≠ 0 ∧ (3 : Reg) ≠ 2 := by decide
theorem test_witness_load_flat : ReadableAt (flatWith 0) .word 60 ∧ ReadableAt (flatWith 0) .byte 63 :=
  ⟨⟨by decide, show 60 + 4 ≤ 64 by decide⟩, ⟨by decide, show 63 + 1 ≤ 64 by decide⟩⟩
theorem test_witness_load_split : ReadableAt splitMem .half 14 ∧ ReadableAt splitMem .word 4092 :=
  ⟨⟨by decide, show 14 < 16 ∨ _ by decide⟩, ⟨by decide, show 4092 < 16 ∨ 4092 / 4096 ∈ [0] by decide⟩⟩
theorem test_witness_load_unaligned : 62 % Width.word.bytes ≠ 0 ∧ 63 % Width.half.bytes ≠ 0 := by decide
theorem test_witness_load_range : 64 % Width.word.bytes = 0 ∧ ¬ ReadRange (flatWith 0) .word 64 ∧
    ¬ ReadRange splitMem .byte 4096 :=
  ⟨by decide, show ¬ 64 + 4 ≤ 64 by decide, show ¬ (4096 < 16 ∨ 4096 / 4096 ∈ [0]) by decide⟩
theorem test_witness_store : WritableAt splitMem .word 16 ∧ WritableAt (flatWith 0) .half 62 :=
  ⟨⟨by decide, show 16 ≤ 16 by decide⟩, ⟨by decide, show 62 + 2 ≤ 64 by decide⟩⟩
theorem test_witness_store_range : ¬ WriteRange splitMem .word 12 ∧ ¬ WriteRange (flatWith 0) .byte 64 :=
  ⟨show ¬ 16 ≤ 12 by decide, show ¬ 64 + 1 ≤ 64 by decide⟩
theorem test_witness_written : (∃ m, splitMem.write .fault .word 16 0x8001FF7F = .ok m) ∧
    (∃ m, splitMem.write .fault .half 18 1 = .ok m) ∧ (∃ m, splitMem.write .fault .byte 17 1 = .ok m) :=
  ⟨⟨_, rfl⟩, ⟨_, rfl⟩, ⟨_, rfl⟩⟩
theorem test_witness_stored : ¬ ImageIgnores .fault splitMem 12 ∧ ¬ ImageIgnores .ignore splitMem 16 :=
  ⟨fun h => (by cases h.1), fun ⟨_, len, hb, h⟩ => (by cases hb; exact absurd h (by decide))⟩
/-- The last word of the image, where the policy ignores the write. -/
theorem test_witness_ignored_write : ImageIgnores .ignore splitMem (12 : Word).toNat ∧
    (12 : Word).toNat % Width.word.bytes = 0 ∧ splitMem.write .ignore .word 12 5 = .ok splitMem :=
  ⟨⟨rfl, 16, rfl, by decide⟩, by decide, by decide⟩
/-- A store into the image with that policy completes and only moves the pc. -/
theorem test_store_ignored : after (exec (.swI 5 0 12) ({ machine splitMem with
    cfg := { Config.reference with imageWrites := .ignore } } : State)) (fun t => t.mem = splitMem ∧ t.pc = 1) = true := by decide
theorem test_witness_read : splitMem.read .word 12 = .ok 0 := by decide
theorem test_witness_alignment : (4098 : Word).toNat % Width.word.bytes ≠ 0 ∧ (4098 : Word).toNat % Width.half.bytes = 0 := by
  decide
theorem test_witness_sparse : ({ backend := .sparse, cells := [], blocks := [] } : Memory).wf ∧
    (0xFFFFFFFC : Word).toNat % Width.word.bytes = 0 ∧ (0xFFFFFFFC : Word).toNat / 4096 ∉ ([] : List Nat) ∧
    (0xFFFFF000 : Word).toNat / 4096 = (0xFFFFFFFC : Word).toNat / 4096 ∧
    (0xFFFFF000 : Word).toNat < (0xFFFFFFFC : Word).toNat := by decide
theorem test_witness_slice : (flatWith 0).backend = .flat 64 ∧ 64 ≤ (64 : Word).toNat ∧ (63 : Word).toNat < 64 ∧
    splitMem.backend = .split 16 ∧ (15 : Word).toNat < 16 ∧ 16 ≤ (16 : Word).toNat ∧
    (16 : Word).toNat / 4096 ∈ splitMem.blocks ∧ (4096 : Word).toNat / 4096 ∉ splitMem.blocks := by decide
theorem test_witness_mayPush : MayPush State.reset ∧
    MayPush { State.reset with cfg := { Config.reference with windowDepthMax := some 3 } } :=
  ⟨fun n h => (by cases h), fun n h => (by cases h; decide)⟩
theorem test_witness_ret : 2 < deeper.regs.depth ∧ State.reset.regs.depth = 2 := by decide
theorem test_witness_overflow : ({ deeper.cfg with windowDepthMax := some 3 } : Config).windowDepthMax = some 3 ∧
    3 ≤ deeper.regs.depth := by decide
theorem test_witness_callRet : (16 : Reg) ≠ 0 ∧ (16 : Reg) ≠ 2 ∧ (31 : Reg) ≠ 0 ∧ (31 : Reg) ≠ 2 := by decide
theorem test_witness_io : State.reset.io.device = .reference ∧ (1 : Word) ∈ Config.reference.ioStdFds ∧
    (State.reset.setReg 4 2).reg 4 ∈ Config.reference.ioStdFds ∧ (3 : Word) ∉ Config.reference.ioStdFds ∧
    State.reset.reg 4 ∉ Config.reference.ioStdFds ∧ (0x25 : BitVec 8) ≠ 0 := by decide
theorem test_witness_io_absent : ({ State.reset with io := { device := .absent, output := [] } } : State).io.device =
    .absent := rfl
/-- The four forms an Io instruction calls its device in. -/
theorem test_witness_io_calls : CallsDevice (.io 3 1 4 5) 3 { funct := 0, s1 := 0, s2 := 0, s3 := 0 } State.reset ∧
    CallsDevice (.ioI 3 1 31 5) 3 { funct := 0, s1 := 0, s2 := 31, s3 := 0 } State.reset ∧
    CallsDevice (.ioOther 255 3 1 (.reg 4) 5) 3 { funct := 255, s1 := 0, s2 := 0, s3 := 0 } State.reset ∧
    CallsDevice (.ioOther 1 3 1 (.imm 31) 5) 3 { funct := 1, s1 := 0, s2 := 31, s3 := 0 } State.reset :=
  ⟨.inl ⟨1, 4, 5, rfl, rfl⟩, .inr (.inl ⟨1, 31, 5, rfl, rfl⟩), .inr (.inr (.inl ⟨255, 1, 4, 5, rfl, rfl⟩)),
    .inr (.inr (.inr ⟨1, 1, 31, 5, rfl, rfl⟩))⟩
theorem test_witness_io_supplied : Supplies (supplied (.store .byte (.const 16) .s1 (.answer (.const 7)))).io.device
      (.store .byte (.const 16) .s1 (.answer (.const 7))) (.supplied [] (.store .byte (.const 16) .s1 (.answer (.const 7)))) ∧
    Supplies (.supplied [.answer .s1] (.answer .s2)) (.answer .s1) (.supplied [] (.answer .s2)) ∧
    (IoProgram.store .byte (.const 16) .s1 (.answer (.const 7))).reply .fault someCall State.reset.mem =
      .ok 7 [⟨.byte, 16, 12⟩] [] ∧
    ∃ m, applyWrites .fault [⟨.byte, 16, 12⟩] State.reset.mem = .ok m :=
  ⟨.inr ⟨rfl, rfl⟩, .inl ⟨_, _, rfl, rfl⟩, rfl, _, rfl⟩
theorem test_witness_io_errors : (IoProgram.fail .unknownFunct).reply .fault someCall State.reset.mem = .err .unknownFunct ∧
    (IoProgram.fail .badDescriptor).reply .fault someCall State.reset.mem = .err .badDescriptor ∧
    (IoProgram.answer (.read .word (.const 2))).reply .fault someCall State.reset.mem = .err (.memory .unaligned) ∧
    (IoProgram.store .word (.const 2) .s1 (.answer .s1)).reply .fault someCall State.reset.mem = .ok 12 [⟨.word, 2, 12⟩] [] ∧
    applyWrites .fault [⟨.word, 2, 12⟩] State.reset.mem = .error .unaligned := by decide
/-- One step with a supplied device: its write lands and its value goes to rd. -/
theorem test_step_supplied : after (exec (.ioI 3 1 31 5) (supplied (.store .byte (.const 16) .s2 (.answer (.bin .add .s2 .s2)))))
    (fun t => t.reg 3 = 62 ∧ t.mem.byteAt 16 = 31 ∧ t.pc = 1) = true := by decide
/-- Completing steps of an Arith, a Store, an Io, a call and a return word. -/
theorem test_witness_steps : after (step (running 0x00280039)) (fun _ => true) = true ∧
    after (step ((running 0x05004047).setReg 1 4)) (fun _ => true) = true ∧
    after (step (running 0x0008400B)) (fun _ => true) = true ∧ after (step (running 0x00008105)) (fun _ => true) = true ∧
    after (step { running 0x00040204 with regs := (running 0).regs.call }) (fun _ => true) = true := by decide
/-- A step over a split memory with an image: ADDI from the image. -/
theorem test_witness_image : after (step (machine { splitMem with cells := [(0, 0x39), (2, 0x28)] }))
    (fun t => t.reg 3 = 5) = true := by decide
theorem test_witness_run : (runFor 1 State.reset).stop = some (.fault (.memory .uninit)) ∧
    (runFor 1 (running 0x00206839)).stop = some (.refusal (.arithFunctUnassigned 20)) ∧
    (runFor 1 (running 0x00280039)).stop = none := by decide

end Sys2Proof.Tests
end

section
/-! PROOFS. The register file and its windows (10_state.md R24 to R30, R37 to R39): what each group of eight selectors reads,
what a register write, a call and a return do to a state, and what reset holds. -/

namespace Sys2Proof.Machine

/-! ## The slot of each selector (R24) -/

theorem slotOf_ofNat_global : ∀ k : Fin 8, slotOf (BitVec.ofNat 5 k.val) = .global k := by decide
theorem slotOf_ofNat_topShared : ∀ k : Fin 8, slotOf (BitVec.ofNat 5 (8 + k.val)) = .topShared k := by decide
theorem slotOf_ofNat_secondLocal : ∀ k : Fin 8, slotOf (BitVec.ofNat 5 (16 + k.val)) = .secondLocal k := by decide
theorem slotOf_ofNat_secondShared : ∀ k : Fin 8, slotOf (BitVec.ofNat 5 (24 + k.val)) = .secondShared k := by decide

/-- Every selector but 0 reads its slot. -/
theorem State.reg_eq_getSlot (s : State) {r : Reg} {p : Slot} (hr : r ≠ 0) (hp : slotOf r = p) :
    s.reg r = s.regs.getSlot p := by
  simp only [State.reg, RegFile.read, if_neg hr, hp]

theorem State.reg_ofNat_global (s : State) (k : Fin 8) (hk : k ≠ 0) :
    s.reg (BitVec.ofNat 5 k.val) = s.regs.globals[k.val] :=
  s.reg_eq_getSlot (by revert k; decide) (slotOf_ofNat_global k)

theorem State.reg_ofNat_topShared (s : State) (k : Fin 8) :
    s.reg (BitVec.ofNat 5 (8 + k.val)) = s.regs.top.shared[k.val] :=
  s.reg_eq_getSlot (by revert k; decide) (slotOf_ofNat_topShared k)

theorem State.reg_ofNat_secondLocal (s : State) (k : Fin 8) :
    s.reg (BitVec.ofNat 5 (16 + k.val)) = s.regs.second.locals[k.val] :=
  s.reg_eq_getSlot (by revert k; decide) (slotOf_ofNat_secondLocal k)

theorem State.reg_ofNat_secondShared (s : State) (k : Fin 8) :
    s.reg (BitVec.ofNat 5 (24 + k.val)) = s.regs.second.shared[k.val] :=
  s.reg_eq_getSlot (by revert k; decide) (slotOf_ofNat_secondShared k)

/-- R27: the program counter is G[2]. -/
theorem State.pc_eq_globals (s : State) : s.pc = s.regs.globals[2] :=
  s.reg_ofNat_global 2 (by decide)

/-! ## Writes (R25, R26) -/

/-- A slot written with its own value leaves the register file as it was. -/
theorem RegFile.setSlot_getSlot (f : RegFile) (p : Slot) : f.setSlot p (f.getSlot p) = f := by
  cases p <;> simp only [RegFile.setSlot, RegFile.getSlot, Vector.set_getElem_self]

/-- A pc written with its own value leaves the state as it was. -/
theorem State.setPc_pc (s : State) : s.setPc s.pc = s := by
  have hpc : s.pc = s.regs.getSlot (slotOf 2) := s.reg_eq_getSlot (by decide) rfl
  rw [State.setPc, State.setReg, RegFile.write, hpc, RegFile.setSlot_getSlot]

/-- One register write on its own is a writeback that leaves the pc where it is. -/
theorem State.writesBack_setReg_pc (s : State) (r : Reg) (v : Word) : WritesBack r v s.pc s (s.setReg r v) := by
  simpa only [State.setPc_pc] using State.writesBack_setReg r v s.pc s

/-! ## Calls and returns (R28, R29) -/

/-- Every slot of the all-zero frame is 0. -/
theorem Frame.zero_slots (k : Fin 8) : Frame.zero.shared[k.val] = 0 ∧ Frame.zero.locals[k.val] = 0 := by
  simp [Frame.zero]

/-- The depth is 2, its least value, exactly when there is no third frame (R20, R22). -/
theorem RegFile.depth_le_two_iff (f : RegFile) : f.depth ≤ 2 ↔ f.below = [] := by
  simp [RegFile.depth]

/-- R28 in the words of the selectors: they read the frames one place further down. -/
theorem State.pushed_call (s : State) : Pushed s { s with regs := s.regs.call } where
  depth := RegFile.call_depth s.regs
  globals := RegFile.call_globals s.regs
  fresh k := by rw [State.reg_ofNat_topShared, RegFile.call_top, (Frame.zero_slots k).1]
  locals k := by simp only [State.reg_ofNat_secondLocal, RegFile.call_second]
  shared k := by simp only [State.reg_ofNat_secondShared, State.reg_ofNat_topShared, RegFile.call_second]
  freshLocals k := by rw [RegFile.call_top, (Frame.zero_slots k).2]
  below := RegFile.call_below s.regs
  mem := rfl
  io := rfl
  cfg := rfl

/-- R29 in the words of the selectors: where a pop answers, they read the frames one place further up. -/
theorem State.popped_ret (s : State) {g : RegFile} (h : s.regs.ret = some g) : Popped s { s with regs := g } := by
  obtain ⟨hglobals, htop, hbelow⟩ := (RegFile.ret_eq_some_iff s.regs g).mp h
  exact
    { depth := by simp only [RegFile.depth, hbelow, List.length_cons]
      globals := hglobals
      shared := fun k => by simp only [State.reg_ofNat_topShared, State.reg_ofNat_secondShared, htop]
      locals := fun k => by simp only [State.reg_ofNat_secondLocal, htop]
      below := hbelow.symm
      mem := rfl
      io := rfl
      cfg := rfl }

/-! ## Reset (R37 to R39, R451) -/

/-- Every slot in sight at reset is 0 (the spec's decision D19). -/
theorem State.reset_getSlot (p : Slot) : State.reset.regs.getSlot p = 0 := by
  cases p with
  | global k => exact Vector.getElem_replicate k.isLt
  | topShared k => exact (Frame.zero_slots k).1
  | secondLocal k => exact (Frame.zero_slots k).2
  | secondShared k => exact (Frame.zero_slots k).1

theorem State.reset_reg (r : Reg) : State.reset.reg r = 0 := by
  by_cases hr : r = 0
  · rw [hr]; rfl
  · rw [State.reset.reg_eq_getSlot hr rfl, State.reset_getSlot]

/-- The memory of reset has an empty image and no block, so no byte of it is readable (20_memory.md R62, R67). -/
theorem State.reset_read_byte (a : Word) : State.reset.mem.read .byte a = .error .uninit := by
  have hrange : ¬ ReadRange State.reset.mem .byte a.toNat := by simp [ReadRange, State.reset]
  rw [Memory.read_eq_error_iff]
  exact Memory.readError_range State.reset.mem .byte a.toNat (Nat.mod_one _) hrange

/-! ## The obligations -/

/-- Settles O6: a register write is a writeback that leaves the pc where it is, unless it writes selector 2. -/
theorem registerWriteEffect : Obligations.RegisterWriteEffect := by
  intro s r v
  refine ⟨s.writesBack_setReg_pc r v, ?_, ?_, RegFile.write_depth s.regs r v, rfl, rfl⟩
  · rintro rfl
    exact s.pc_setPc v
  · intro hr
    rw [State.reg_setReg, if_neg (by decide), if_neg hr.symm]

/-- Settles O1: every slot of reset is 0, and its memory holds neither an image nor a block. -/
theorem resetRegisters : Obligations.ResetRegisters :=
  ⟨State.reset_reg, fun k => (Frame.zero_slots k).2, State.reset_depth, State.reset_reg 2, State.reset_read_byte⟩

/-- Settles O5: the window mapping of R24, one group of eight selectors at a time. -/
theorem windowMapping : Obligations.WindowMapping := fun s =>
  ⟨RegFile.read_zero s.regs, s.pc_eq_globals, s.reg_ofNat_global, s.reg_ofNat_topShared, s.reg_ofNat_secondLocal,
    s.reg_ofNat_secondShared⟩

/-- Settles O7: the selectors read the slots of the pushed stack, by the window mapping. -/
theorem callPushesFrame : Obligations.CallPushesFrame := State.pushed_call

/-- Settles O8: a pop fails exactly when there is no third frame, that is at depth 2. -/
theorem returnPopsFrame : Obligations.ReturnPopsFrame := by
  intro s
  constructor
  · intro hdepth
    exact (State.popWindow_eq_error_iff s _).mpr ⟨s.regs.depth_le_two_iff.mp hdepth, rfl⟩
  · intro hdepth
    have hret : s.regs.ret ≠ none := fun hnone =>
      Nat.not_le.mpr hdepth (s.regs.depth_le_two_iff.mpr ((RegFile.ret_eq_none_iff s.regs).mp hnone))
    obtain ⟨g, hg⟩ := Option.ne_none_iff_exists'.mp hret
    exact ⟨_, (State.popWindow_eq_ok_iff s _).mpr ⟨g, hg, rfl⟩, s.popped_ret hg⟩

/-- Settles O9: the frame a push adds is the one the pop takes off, and the former top and second frame are back. -/
theorem callThenReturnIsIdentity : Obligations.CallThenReturnIsIdentity := fun f =>
  (RegFile.ret_eq_some_iff f.call f).mpr ⟨RegFile.call_globals f, RegFile.call_second f, RegFile.call_below f⟩

end Sys2Proof.Machine
end

section
/-! PROOFS. Memory (20_memory.md R51 to R78): what a read answers where it is held and after a write, what read_slice gives, which
bytes sparse storage holds, and what one step does to memory and to the depth of the window stack. -/

namespace Sys2Proof.Machine

/-! ## Alignment and range decide how an access ends (R55 to R68) -/

theorem readRangeError_ne_unaligned (m : Memory) : readRangeError m ≠ .unaligned := by
  unfold readRangeError
  cases m.backend <;> simp

/-- A read fails Unaligned exactly off its natural alignment: within it, only the range can make it fail. -/
theorem Memory.readError_eq_unaligned_iff (m : Memory) (w : Width) (a : Nat) :
    m.readError w a = some .unaligned ↔ a % w.bytes ≠ 0 := by
  refine ⟨fun h hal => ?_, m.readError_unaligned w a⟩
  by_cases hr : ReadRange m w a
  · rw [(m.readError_eq_none_iff w a).mpr ⟨hal, hr⟩] at h
    cases h
  · rw [m.readError_range w a hal hr] at h
    exact readRangeError_ne_unaligned m (Option.some.inj h)

/-- A write fails Unaligned exactly off its natural alignment: within it, it stores, is ignored, or is out of bounds. -/
theorem Memory.writeError_eq_unaligned_iff (m : Memory) (p : ImageWrites) (w : Width) (a : Nat) :
    m.writeError p w a = some .unaligned ↔ a % w.bytes ≠ 0 := by
  refine ⟨fun h hal => ?_, m.writeError_unaligned p w a⟩
  by_cases hends : WriteRange m w a ∨ ImageIgnores p m a
  · have hnone := (m.writeError_eq_none_iff p w a).mpr (hends.imp (⟨hal, ·⟩) (⟨hal, ·⟩))
    rw [hnone] at h
    cases h
  · obtain ⟨hr, hi⟩ := not_or.mp hends
    rw [m.writeError_range p w a hal hr hi] at h
    cases h

theorem Memory.read_of_readable (m : Memory) (w : Width) (a : Word) (h : ReadableAt m w a.toNat) :
    m.read w a = .ok (m.valueAt w a.toNat) :=
  (m.read_eq_ok_iff w a _).mpr ⟨(m.readError_eq_none_iff w a.toNat).mpr h, rfl⟩

/-! ## Where a read is held, by backend (R57, R62, R67) -/

theorem readRange_flat_iff {m : Memory} {size : Nat} (hb : m.backend = .flat size) (w : Width) (a : Nat) :
    ReadRange m w a ↔ a + w.bytes ≤ size := by
  simp only [ReadRange, hb]

theorem writeRange_flat_iff {m : Memory} {size : Nat} (hb : m.backend = .flat size) (w : Width) (a : Nat) :
    WriteRange m w a ↔ a + w.bytes ≤ size := by
  simp only [WriteRange, hb]

theorem writeRange_of_sparse {m : Memory} (hb : m.backend = .sparse) (w : Width) (a : Nat) : WriteRange m w a := by
  simp only [WriteRange, hb]

/-- Everything in an allocated block is held. -/
theorem readRange_of_block {m : Memory} (hm : m.Blocked) (w : Width) {a : Nat} (h : a / 4096 ∈ m.blocks) :
    ReadRange m w a := by
  cases hb : m.backend with
  | flat size => exact absurd hb (hm size)
  | sparse => simpa only [ReadRange, hb] using h
  | split len => simpa only [ReadRange, hb] using Or.inr h

/-! ## The value read from given bytes (R53) -/

/-- n bytes that are the digits of x to the base 256 sum to the low n bytes of x. -/
theorem leSum_of_bytes (m : Memory) (n a x : Nat)
    (h : ∀ k, k < n → (m.byteAt (a + k)).toNat = x / 256 ^ k % 256) : leSum m a n = x % 256 ^ n := by
  induction n generalizing a x with
  | zero => rw [leSum, Nat.pow_zero, Nat.mod_one]
  | succ n ih =>
    have hfirst : (m.byteAt a).toNat = x % 256 := by simpa using h 0 n.succ_pos
    have hrest : leSum m (a + 1) n = x / 256 % 256 ^ n := ih (a + 1) (x / 256) fun k hk => by
      rw [Nat.div_div_eq_div_mul, ← Nat.pow_succ', ← h (k + 1) (Nat.succ_lt_succ hk), Nat.add_right_comm, Nat.add_assoc]
    rw [leSum, hfirst, hrest, Nat.pow_succ', Nat.mod_mul]

theorem Memory.read_of_bytes (m : Memory) (w : Width) (a : Word) (x : Nat) (hr : ReadableAt m w a.toNat)
    (h : ∀ k, k < w.bytes → (m.byteAt (a.toNat + k)).toNat = x / 256 ^ k % 256) :
    m.read w a = .ok (BitVec.ofNat 32 (x % 256 ^ w.bytes)) := by
  rw [m.read_of_readable w a hr, ← leSum_of_bytes m w.bytes a.toNat x h, ← Memory.toNat_valueAt, BitVec.ofNat_toNat,
    BitVec.setWidth_eq]

/-! ## Reads inside what a write has stored (R54, R65, R76) -/

/-- The j-th byte of what was written, and w' bytes from there on, can be read where that is aligned and inside the write. -/
theorem Memory.readableAt_inside_write (m m' : Memory) (p : ImageWrites) (w w' : Width) (a v : Word) (j : Nat)
    (h : m.write p w a v = .ok m') (hi : ¬ ImageIgnores p m a.toNat) (hj : j + w'.bytes ≤ w.bytes)
    (hal : (a.toNat + j) % w'.bytes = 0) : ReadableAt m' w' (a.toNat + j) := by
  obtain ⟨⟨hwal, hrange⟩, rfl⟩ := Memory.write_stored m m' p w a v h hi
  have hst := m.stored_putValue w a.toNat v
  refine ⟨hal, ?_⟩
  by_cases hm : m.Blocked
  · have hpos : 0 < w'.bytes := by cases w' <;> decide
    have hblock : (a.toNat + j) / 4096 = a.toNat / 4096 :=
      aligned_same_block w a.toNat j ((w.aligned_iff a.toNat).mpr hwal) (by omega)
    exact readRange_of_block (fun size => hst.backend ▸ hm size) w' ((hst.blocks _).mpr (.inr ⟨hm, hblock⟩))
  · obtain ⟨size, hb⟩ := not_forall_not.mp hm
    rw [readRange_flat_iff (hst.backend.trans hb)]
    rw [writeRange_flat_iff hb] at hrange
    omega

/-- A read inside what was written gives those bytes of the value (R65); with j = 0 and the same width it is the round trip. -/
theorem Memory.read_inside_write (m m' : Memory) (p : ImageWrites) (w w' : Width) (a b v : Word) (j : Nat)
    (h : m.write p w a v = .ok m') (hi : ¬ ImageIgnores p m a.toNat) (hj : j + w'.bytes ≤ w.bytes)
    (hb : b.toNat = a.toNat + j) (hal : b.toNat % w'.bytes = 0) :
    m'.read w' b = .ok (BitVec.ofNat 32 (v.toNat / 256 ^ j % 256 ^ w'.bytes)) := by
  refine m'.read_of_bytes w' b _ (hb ▸ m.readableAt_inside_write m' p w w' a v j h hi hj (hb ▸ hal)) fun k hk => ?_
  obtain ⟨-, rfl⟩ := Memory.write_stored m m' p w a v h hi
  rw [hb, Nat.add_assoc, (m.stored_putValue w a.toNat v).bytes (j + k) (by omega), Nat.div_div_eq_div_mul, Nat.pow_add]

/-- A write that answers was aligned. -/
theorem Memory.aligned_of_write (m m' : Memory) (p : ImageWrites) (w : Width) (a v : Word)
    (h : m.write p w a v = .ok m') : a.toNat % w.bytes = 0 := by
  have hnone := ((m.write_eq_ok_iff m' p w a v).mp h).1
  exact ((m.writeError_eq_none_iff p w a.toNat).mp hnone).elim And.left And.left

/-- R76 for every width. -/
theorem Memory.read_after_write (m m' : Memory) (p : ImageWrites) (w : Width) (a v : Word)
    (h : m.write p w a v = .ok m') (hi : ¬ ImageIgnores p m a.toNat) :
    m'.read w a = .ok (BitVec.ofNat 32 (v.toNat % 256 ^ w.bytes)) := by
  simpa using m.read_inside_write m' p w w a a v 0 h hi (Nat.zero_add _).le rfl (m.aligned_of_write m' p w a v h)

theorem Memory.eq_of_write_ignored (m m' : Memory) (p : ImageWrites) (w : Width) (a v : Word)
    (h : m.write p w a v = .ok m') (hi : ImageIgnores p m a.toNat) : m' = m :=
  Except.ok.inj (h.symm.trans (m.write_ignored p w a v (m.aligned_of_write m' p w a v h) hi))

/-! ## Bytes that are not held (R62, R64) -/

theorem cellsGet_of_forall_ne (l : List Host.Cell) (a : Nat) (h : ∀ c ∈ l, c.1 ≠ a) : cellsGet l a = Memory.unlisted := by
  have hall : l.filter (fun c => c.1 ≠ a) = l := List.filter_eq_self.mpr fun c hc => decide_eq_true (h c hc)
  rw [← hall, cellsGet_filter_self]

/-- In a canonical memory a byte the backend does not hold is not listed, so once its block is allocated it reads 0. -/
theorem Memory.byteAt_of_not_holds (m : Memory) (a : Nat) (hwf : m.wf) (h : ¬ m.holds a = true) : m.byteAt a = 0 := by
  obtain ⟨-, hlisted, -⟩ := hwf
  exact cellsGet_of_forall_ne m.cells a fun c hc hca => h (hca ▸ (hlisted c hc).2)

/-! ## read_slice (R70 to R73) -/

theorem Memory.sliceOf_bytesFrom (m : Memory) (a n : Nat) : SliceOf m a n (m.bytesFrom a n) := by
  refine ⟨by simp [Memory.bytesFrom], fun k hk => ?_⟩
  simp [Memory.bytesFrom, hk]

/-- len bytes from a on, cut at stop. -/
theorem Memory.sliceOf_upTo (m : Memory) (a len stop : Nat) :
    SliceOf m a (min len (stop - a)) (m.bytesFrom a (min (a + len) stop - a)) := by
  rw [show min (a + len) stop - a = min len (stop - a) by omega]
  exact m.sliceOf_bytesFrom a _

/-- Outside a flat region and an image, read_slice ends at the end of the block, if that is allocated (R72, R73). -/
theorem Memory.readSlice_of_block (m : Memory) (a : Word) (len : Nat)
    (hb : m.backend = .sparse ∨ ∃ L, m.backend = .split L ∧ L ≤ a.toNat) :
    m.readSlice a len =
      if blockKey a.toNat ∈ m.blocks then
        .ok (m.bytesFrom a.toNat (min (a.toNat + len) ((blockKey a.toNat + 1) * 4096) - a.toNat))
      else .error .uninit := by
  rcases hb with hb | ⟨L, hb, hL⟩
  · simp only [Memory.readSlice, hb, Memory.hasBlock_iff]
  · simp only [Memory.readSlice, hb, if_neg (Nat.not_lt.mpr hL), Memory.hasBlock_iff]

/-! ## What a write keeps (R51, R64, R68) -/

/-- No write frees a block. -/
theorem Memory.write_blocks (m m' : Memory) (p : ImageWrites) (w : Width) (a v : Word) (k : Nat) (hk : k ∈ m.blocks)
    (h : m.write p w a v = .ok m') : k ∈ m'.blocks := by
  obtain ⟨-, rfl⟩ := (m.write_eq_ok_iff m' p w a v).mp h
  rcases m.store_cases w a.toNat v with ⟨-, he⟩ | ⟨-, he⟩
  · rwa [he]
  · rw [he]
    exact ((m.stored_putValue w a.toNat v).blocks k).mpr (.inl hk)

theorem applyWrites_blocks (p : ImageWrites) (ws : List IoWrite) (m m' : Memory) (k : Nat) (hk : k ∈ m.blocks)
    (h : applyWrites p ws m = .ok m') : k ∈ m'.blocks := by
  induction ws generalizing m with
  | nil => cases h; exact hk
  | cons x xs ih =>
    simp only [applyWrites] at h
    split at h
    · cases h
    · next m1 h1 => exact ih m1 (m.write_blocks m1 _ _ _ _ k hk h1) h

/-- One write is a list of one. -/
theorem applyWrites_singleton (p : ImageWrites) (x : IoWrite) (m m' : Memory)
    (h : m.write p x.width x.addr x.value = .ok m') : applyWrites p [x] m = .ok m' := by
  simp only [applyWrites, h]

/-! ## What one step does to memory and to the windows -/

/-- Every step that completes makes some writes to memory (none, the one of a store, or those of a device) and then writes back
an outcome; up to the writeback registers and parameters are as they were. -/
theorem step_next_writes_then_writeback (s t : State) (h : step s = .next t) :
    ∃ ws u out rd, applyWrites s.cfg.imageWrites ws s.mem = .ok u.mem ∧ u.regs = s.regs ∧ u.cfg = s.cfg ∧
      writeback out rd u = .next t := by
  obtain ⟨-, i, -, -, hexec⟩ := step_next s t h
  rcases exec_next_cases i s t hexec with ⟨out, rd, hback⟩ | ⟨w, a, v, m, hwrite, hback⟩ | ⟨c, v, io, m, rd, hdev, hback⟩
  · exact ⟨[], s, out, rd, rfl, rfl, rfl, hback⟩
  · exact ⟨[⟨w, a, v⟩], { s with mem := m }, .nothing, 0, applyWrites_singleton _ _ _ _ hwrite, rfl, rfl, hback⟩
  · obtain ⟨ws, hws⟩ := ioDevice_mem _ _ _ _ _ _ _ hdev
    exact ⟨ws, { s with io := io, mem := m }, .value v, rd, hws, rfl, rfl, hback⟩

/-- The memory after a step is the memory before it with some writes made, and the parameters are the same. -/
theorem step_next_mem (s t : State) (h : step s = .next t) :
    t.cfg = s.cfg ∧ ∃ ws, applyWrites s.cfg.imageWrites ws s.mem = .ok t.mem := by
  obtain ⟨ws, u, out, rd, hws, -, hcfg, hback⟩ := step_next_writes_then_writeback s t h
  obtain ⟨htmem, -, htcfg⟩ := writeback_keeps out rd u t hback
  exact ⟨htcfg.trans hcfg, ws, htmem ▸ hws⟩

/-- A writeback keeps the depth of a bounded stack within its bound: only a call pushes, and it pushes below the bound (R407). -/
theorem writeback_depth_le (out : ExecOut) (rd : Reg) (s t : State) (n : Nat) (hn : s.cfg.windowDepthMax = some n)
    (hs : s.regs.depth ≤ max n 2) (h : writeback out rd s = .next t) : t.regs.depth ≤ max n 2 := by
  obtain ⟨hcall, hret, hkeep⟩ := writeback_depth out rd s t h
  have hsame : (∀ l g, out ≠ .call l g) → (∀ c, out ≠ .ret c) → t.regs.depth = s.regs.depth := fun hc hr =>
    congrArg (List.length · + 2) (hkeep hc hr).1
  cases out with
  | call link target =>
    obtain ⟨hdepth, hbelow⟩ := hcall link target rfl
    have := hbelow n hn
    omega
  | ret cont =>
    have := hret cont rfl
    omega
  | value v => exact (hsame nofun nofun).trans_le hs
  | skip v => exact (hsame nofun nofun).trans_le hs
  | nothing => exact (hsame nofun nofun).trans_le hs

/-! ## The obligations -/

/-- Settles O3: the writes of a step keep the canonical form of memory, and its writeback keeps the bound of the windows. -/
theorem stepKeepsInvariant : Obligations.StepKeepsInvariant := by
  rintro s t ⟨hwf, hbound⟩ hstep
  obtain ⟨ws, u, out, rd, hws, hregs, hcfg, hback⟩ := step_next_writes_then_writeback s t hstep
  obtain ⟨htmem, -, htcfg⟩ := writeback_keeps out rd u t hback
  refine ⟨htmem ▸ applyWrites_wf _ ws s.mem u.mem hwf hws, fun n hn => ?_⟩
  have hu : u.cfg.windowDepthMax = some n := htcfg ▸ hn
  exact writeback_depth_le out rd u t n hu (hregs ▸ hbound n (hcfg ▸ hu)) hback

/-- Settles O40: a read of what was written, at offset 0 and the same width; four bytes are the whole value. -/
theorem memoryRoundTrip : Obligations.MemoryRoundTrip := by
  intro m m' p a v
  refine ⟨fun hi => ⟨fun h => ?_, fun h => ?_, fun h => ?_⟩, fun hi w h => m.eq_of_write_ignored m' p w a v h hi⟩
  · have hv : BitVec.ofNat 32 (v.toNat % 256 ^ Width.word.bytes) = v := by
      rw [show 256 ^ Width.word.bytes = 2 ^ 32 from rfl, Nat.mod_eq_of_lt v.isLt, BitVec.ofNat_toNat, BitVec.setWidth_eq]
    rw [m.read_after_write m' p .word a v h hi, hv]
  · exact m.read_after_write m' p .half a v h hi
  · exact m.read_after_write m' p .byte a v h hi

/-- Settles O41: a write that stores allocates the block and puts its bytes, and one that is ignored leaves the memory. -/
theorem writeTouchesItsBytesOnly : Obligations.WriteTouchesItsBytesOnly := by
  intro m m' p w a v h
  by_cases hi : ImageIgnores p m a.toNat
  · obtain rfl := m.eq_of_write_ignored m' p w a v h hi
    exact ⟨fun hn => absurd hi hn, fun _ _ => rfl, fun _ => rfl⟩
  · obtain ⟨-, rfl⟩ := m.write_stored m' p w a v h hi
    refine ⟨fun _ k hk => ?_, (m.stored_putValue w a.toNat v).others, fun hc => absurd hc hi⟩
    rw [Memory.byteAt_putValue, if_pos (by omega), Nat.add_sub_cancel_left]

/-- Settles O42: a narrow read is a read inside what was written, at the offset of its bytes. -/
theorem littleEndianNarrowReads : Obligations.LittleEndianNarrowReads := by
  refine ⟨fun m w a v h => ?_, fun m m' p a v hi h => ?_⟩
  · rw [((m.read_eq_ok_iff w a v).mp h).2, Memory.toNat_valueAt]
  have hal : a.toNat % 4 = 0 := m.aligned_of_write m' p .word a v h
  have hv : v.toNat < 2 ^ 32 := v.isLt
  have h3 : (a + 3).toNat = a.toNat + 3 := by bv_omega
  have h2 : (a + 2).toNat = a.toNat + 2 := by bv_omega
  have read0 := m.read_inside_write m' p .word .byte a a v 0 h hi (by decide) rfl (Nat.mod_one _)
  have read3 := m.read_inside_write m' p .word .byte a (a + 3) v 3 h hi (by decide) h3 (Nat.mod_one _)
  have read2 := m.read_inside_write m' p .word .half a (a + 2) v 2 h hi (by decide) h2
    (by simp only [Width.bytes]; omega)
  have low : v.toNat / 256 ^ 0 % 256 ^ Width.byte.bytes = v.toNat % 256 := by simp only [Width.bytes]; omega
  have top1 : v.toNat / 256 ^ 3 % 256 ^ Width.byte.bytes = v.toNat / 2 ^ 24 := by simp only [Width.bytes]; omega
  have top2 : v.toNat / 256 ^ 2 % 256 ^ Width.half.bytes = v.toNat / 2 ^ 16 := by simp only [Width.bytes]; omega
  exact ⟨low ▸ read0, top1 ▸ read3, top2 ▸ read2⟩

/-- Settles O43: an access is Unaligned exactly off its alignment, and the fetch is a word read at its code address. -/
theorem naturalAlignment : Obligations.NaturalAlignment := by
  intro m p w a v
  have hread := (m.read_eq_error_iff w a _).trans (m.readError_eq_unaligned_iff w a.toNat)
  have hwrite := (m.write_eq_error_iff p w a v _).trans (m.writeError_eq_unaligned_iff p w a.toNat)
  refine ⟨fun hal => ⟨hread.mpr hal, hwrite.mpr hal⟩, fun hal => ⟨fun h => hread.mp h hal, fun h => hwrite.mp h hal⟩,
    ⟨rfl, rfl, rfl⟩, fun s => ?_⟩
  rw [State.fetch, Memory.read_eq_error_iff, Memory.readError_eq_unaligned_iff, toNat_fetchAddrOf]
  rfl

/-- Settles O44, one clause per way an aligned access ends. -/
theorem accessOutcomes : Obligations.AccessOutcomes := by
  intro m p w a v hal
  refine ⟨fun hr => ⟨_, m.read_of_readable w a ⟨hal, hr⟩⟩, fun hr => ?_,
    fun hr => ⟨_, m.write_of_writable p w a v ⟨hal, hr⟩⟩, m.write_ignored p w a v hal, fun hr hi => ?_⟩
  · exact (m.read_eq_error_iff w a _).mpr (m.readError_range w a.toNat hal hr)
  · exact (m.write_eq_error_iff p w a v _).mpr (m.writeError_range p w a.toNat hal hr hi)

/-- Settles O45: the write adds its block, every byte of an allocated block is readable, and a byte of an absent block is not
listed, so it reads 0 unless the write stores it. -/
theorem sparseWriteAllocates : Obligations.SparseWriteAllocates := by
  intro m p w a v hwf hb hal
  have hst := m.stored_putValue w a.toNat v
  have hm : m.Blocked := fun size hf => nomatch hb.symm.trans hf
  have hreadable (b : Word) (hblock : b.toNat / 4096 = a.toNat / 4096) :
      ReadableAt ((m.allocate a.toNat).putValue w a.toNat v) .byte b.toNat :=
    ⟨Nat.mod_one _, readRange_of_block (fun size => hst.backend ▸ hm size) .byte
      ((hst.blocks _).mpr (.inr ⟨hm, hblock⟩))⟩
  refine ⟨_, m.write_of_writable p w a v ⟨hal, writeRange_of_sparse hb w a.toNat⟩, hst,
    fun b hblock => ⟨_, Memory.read_of_readable _ _ _ (hreadable b hblock)⟩, fun habsent b hblock hout => ?_⟩
  have hnotHeld : ¬ m.holds b.toNat = true := by
    simpa only [Memory.holds_iff, hb, blockKey, hblock] using habsent
  rw [Memory.read_of_readable _ _ _ (hreadable b hblock), Memory.valueAt, hst.others b.toNat hout,
    m.byteAt_of_not_holds b.toNat hwf hnotHeld]
  rfl

/-- Settles O46: each backend cuts the bytes from the address on at the end of what holds it. -/
theorem readSliceBounds : Obligations.ReadSliceBounds := by
  intro m a len
  refine ⟨fun size hb => ⟨fun h => ?_, fun h => ⟨_, ?_, m.sliceOf_upTo a.toNat len size⟩⟩,
    fun L hb h => ⟨_, ?_, m.sliceOf_upTo a.toNat len L⟩, fun hb => ?_⟩
  · simp only [Memory.readSlice, hb, if_pos h]
  · simp only [Memory.readSlice, hb, if_neg (Nat.not_le.mpr h)]
  · simp only [Memory.readSlice, hb, if_pos h]
  · rw [m.readSlice_of_block a len hb]
    have hend : 4096 - a.toNat % 4096 = (blockKey a.toNat + 1) * 4096 - a.toNat := by unfold blockKey; omega
    refine ⟨fun h => if_neg h, fun h => ⟨_, if_pos h, ?_⟩⟩
    rw [hend]
    exact m.sliceOf_upTo a.toNat len _

/-- Settles O59: a step's effect on memory is a list of writes, and no write changes backend or image or frees a block. -/
theorem imageAndBackendNeverChange : Obligations.ImageAndBackendNeverChange := by
  intro s t hstep
  obtain ⟨hcfg, ws, hws⟩ := step_next_mem s t hstep
  exact ⟨hcfg, applyWrites_backend _ ws _ _ hws, fun k hk => applyWrites_blocks _ ws _ _ k hk hws,
    fun L hb a ha => applyWrites_image _ ws _ _ L a hb ha hws⟩

/-- Settles O2: reset's memory is canonical, and the reference parameters set no bound. -/
theorem resetKeepsInvariant : Obligations.ResetKeepsInvariant :=
  ⟨reset_memory_wf, nofun⟩

end Sys2Proof.Machine
end

section
/-! PROOFS. The encoding (30_encoding.md R102 to R130): what each field of a decoded word is, which instruction its opcode
and its function code name, the numbers the five immediates hold, and the statements about fields. -/

namespace Sys2Proof.Machine

/-! ## The fields of a decoded word, by its opcode (R103, R105 to R117) -/

section Fields
variable {c : Config} {w : Word}

theorem isImmOf_iff : isImmOf c w = true ↔ w.getLsbD 0 = true ∨ opcodeOf c w = .immUpper := by
  unfold isImmOf
  cases opcodeOf c w <;> simp only [reduceCtorEq, or_false, or_true]

/-- R103: off ImmUpper, is_imm is word bit 0. -/
theorem isImmOf_of_ne (h : opcodeOf c w ≠ .immUpper) : isImmOf c w = w.getLsbD 0 := by
  rw [Bool.eq_iff_iff, isImmOf_iff, or_iff_left h]

theorem decodeFields_rd_eq : (decodeFields c w).rd = if opcodeOf c w = .store then 0 else extract w 4 5 := by
  unfold decodeFields
  cases opcodeOf c w <;> rfl

theorem decodeFields_rs1_eq :
    (decodeFields c w).rs1 = if opcodeOf c w = .immUpper then extract w 4 5 else extract w 14 5 := by
  unfold decodeFields
  cases opcodeOf c w <;> rfl

theorem decodeFields_rd_of_ne (h : opcodeOf c w ≠ .store) : (decodeFields c w).rd = extract w 4 5 := by
  rw [decodeFields_rd_eq, if_neg h]

theorem decodeFields_rs1_of_ne (h : opcodeOf c w ≠ .immUpper) : (decodeFields c w).rs1 = extract w 14 5 := by
  rw [decodeFields_rs1_eq, if_neg h]

/-- R108: register-register Arith keeps all three function fields. -/
theorem functOf_arith_reg (h : opcodeOf c w = .arith) (h0 : w.getLsbD 0 = false) :
    functOf c w = extract w 24 5 ++ extract w 29 3 ++ extract w 9 5 := by
  simp only [functOf, h, h0, Bool.false_eq_true, if_false]

theorem functOf_arith_imm (h : opcodeOf c w = .arith) (h0 : w.getLsbD 0 = true) :
    functOf c w = (extract w 9 5).setWidth 13 := by
  simp only [functOf, h, h0, if_true]

theorem functOf_io (h : opcodeOf c w = .io) : functOf c w = (extract w 29 3 ++ extract w 9 5).setWidth 13 := by
  simp only [functOf, h]

theorem functOf_immUpper (h : opcodeOf c w = .immUpper) : functOf c w = (extract w 9 4).setWidth 13 := by
  simp only [functOf, h]

theorem functOf_func (h : opcodeOf c w = .func) : functOf c w = (extract w 9 1).setWidth 13 := by
  simp only [functOf, h]

/-- R112: the opcodes that keep only the low function field. -/
theorem functOf_low (h : opcodeOf c w ∈ [Opcode.compressed, .load, .store, .arithSkip]) :
    functOf c w = (extract w 9 5).setWidth 13 := by
  simp only [List.mem_cons, List.not_mem_nil, or_false] at h
  rcases h with h | h | h | h <;> simp only [functOf, h]

theorem immOf_immA (h : opcodeOf c w ∈ [Opcode.compressed, .load, .arith, .arithSkip]) : immOf c w = immA w := by
  simp only [List.mem_cons, List.not_mem_nil, or_false] at h
  rcases h with h | h | h | h <;> simp only [immOf, h]

theorem immOf_store (h : opcodeOf c w = .store) : immOf c w = immS w := by simp only [immOf, h]

theorem immOf_func (h : opcodeOf c w = .func) : immOf c w = immF c.fimmWidth w := by simp only [immOf, h]

theorem immOf_io (h : opcodeOf c w = .io) : immOf c w = immI w := by simp only [immOf, h]

theorem immOf_immUpper (h : opcodeOf c w = .immUpper) : immOf c w = immU w := by simp only [immOf, h]

/-- R154: the register form of the second operand. -/
theorem decodeFields_src2_reg (h : opcodeOf c w ≠ .immUpper) (h0 : w.getLsbD 0 = false) :
    (decodeFields c w).src2 = .reg (extract w 19 5) := by
  have himm : isImmOf c w = false := (isImmOf_of_ne h).trans h0
  simp only [Fields.src2, decodeFields, himm, Bool.false_eq_true, if_false]

/-- R154: the immediate form of the second operand. -/
theorem decodeFields_src2_imm (h0 : w.getLsbD 0 = true) : (decodeFields c w).src2 = .imm (immOf c w) := by
  have himm : isImmOf c w = true := isImmOf_iff.mpr (.inl h0)
  simp only [Fields.src2, decodeFields, himm, if_true]

end Fields

/-! ## The instruction of a decoded word, by its opcode (R120, R128) -/

section Decode
variable {c : Config} {w : Word}

theorem decodeWith_compressed (h : opcodeOf c w = .compressed) : decodeWith c w = .ok .compressed := by
  have ho : (decodeFields c w).opcode = .compressed := h
  simp only [decodeWith, Fields.toInstr, ho]

theorem decodeWith_load (h : opcodeOf c w = .load) {op : LoadOp} (hop : LoadOp.ofFunct (functOf c w) = some op) :
    decodeWith c w = .ok (loadInstr op (decodeFields c w).rd (decodeFields c w).rs1 (decodeFields c w).src2) := by
  have ho : (decodeFields c w).opcode = .load := h
  have hf : LoadOp.ofFunct (decodeFields c w).funct = some op := hop
  simp only [decodeWith, Fields.toInstr, ho, hf]

theorem decodeWith_func (h : opcodeOf c w = .func) : decodeWith c w = .ok (funcInstr ((functOf c w).getLsbD 0)
    (decodeFields c w).rd (decodeFields c w).rs1 (decodeFields c w).src2) := by
  have ho : (decodeFields c w).opcode = .func := h
  simp only [decodeWith, Fields.toInstr, ho]
  rfl

theorem decodeWith_store (h : opcodeOf c w = .store) {op : StoreOp} (hop : StoreOp.ofFunct (functOf c w) = some op) :
    decodeWith c w = .ok (storeInstr op (decodeFields c w).rs3 (decodeFields c w).rs1 (decodeFields c w).src2) := by
  have ho : (decodeFields c w).opcode = .store := h
  have hf : StoreOp.ofFunct (decodeFields c w).funct = some op := hop
  simp only [decodeWith, Fields.toInstr, ho, hf]

theorem decodeWith_arith (h : opcodeOf c w = .arith) {op : AluOp} (hop : AluOp.ofFunct c (functOf c w) = some op) :
    decodeWith c w = .ok (arithInstr op (decodeFields c w).rd (decodeFields c w).rs1 (decodeFields c w).src2) := by
  have ho : (decodeFields c w).opcode = .arith := h
  have hf : AluOp.ofFunct c (decodeFields c w).funct = some op := hop
  simp only [decodeWith, Fields.toInstr, ho, hf]

theorem decodeWith_io (h : opcodeOf c w = .io) : decodeWith c w = .ok (ioInstr ((functOf c w).setWidth 8)
    (decodeFields c w).rd (decodeFields c w).rs1 (decodeFields c w).src2 (decodeFields c w).rs3) := by
  have ho : (decodeFields c w).opcode = .io := h
  simp only [decodeWith, Fields.toInstr, ho]
  rfl

theorem decodeWith_arithSkip (h : opcodeOf c w = .arithSkip) {op : AluOp} (hop : AluOp.ofFunct c (functOf c w) = some op) :
    decodeWith c w = .ok (arithSkipInstr op (decodeFields c w).rd (decodeFields c w).rs1 (decodeFields c w).src2) := by
  have ho : (decodeFields c w).opcode = .arithSkip := h
  have hf : AluOp.ofFunct c (decodeFields c w).funct = some op := hop
  simp only [decodeWith, Fields.toInstr, ho, hf]

theorem decodeWith_immUpper (h : opcodeOf c w = .immUpper) :
    decodeWith c w = .ok (immUpperInstr c (extract w 9 4) (decodeFields c w).rd (immU w)) := by
  have ho : (decodeFields c w).opcode = .immUpper := h
  have hf : (decodeFields c w).funct.setWidth 4 = extract w 9 4 := by
    rw [show (decodeFields c w).funct = functOf c w from rfl, functOf_immUpper h, BitVec.setWidth_setWidth_of_le _ (by decide),
      BitVec.setWidth_eq]
  have hi : (decodeFields c w).imm = immU w := immOf_immUpper h
  simp only [decodeWith, Fields.toInstr, ho, hf, hi]

end Decode

/-! ## The immediates as numbers (R113 to R117) -/

theorem fieldNat_eq_of_extract_eq {w w' : Word} {o o' n : Nat} (h : extract w o n = extract w' o' n) :
    fieldNat w o n = fieldNat w' o' n := by
  rw [← toNat_extract, h, toNat_extract]

/-- A value with its low k bits cleared is the largest multiple of 2^k below it. -/
theorem toNat_and_allOnes_shiftLeft (w : Word) (k : Nat) :
    (w &&& BitVec.allOnes 32 <<< k).toNat = w.toNat / 2 ^ k * 2 ^ k := by
  rw [← BitVec.shiftLeft_ushiftRight, BitVec.toNat_shiftLeft, BitVec.toNat_ushiftRight, Nat.shiftRight_eq_div_pow,
    Nat.shiftLeft_eq]
  exact Nat.mod_eq_of_lt (Nat.lt_of_le_of_lt (Nat.div_mul_le_self _ _) w.isLt)

/-- The upper bits of a value, read as signed, are the signed value divided by the weight of the lowest of them. -/
theorem toInt_extractLsb'_top {n o : Nat} (hn : n ≠ 0) (x : BitVec (n + o)) :
    (x.extractLsb' o n).toInt = x.toInt / 2 ^ o := by
  have hsplit : x = x.extractLsb' o n ++ x.extractLsb' 0 o := BitVec.extractLsb'_append_extractLsb'.symm
  have hlow : ((x.extractLsb' 0 o).toNat : Int) < 2 ^ o := by exact_mod_cast (x.extractLsb' 0 o).isLt
  conv_rhs => rw [hsplit, BitVec.toInt_append, if_neg (by simpa using hn)]
  rw [Int.add_comm, Int.add_mul_ediv_left _ _ (by positivity), Int.ediv_eq_zero_of_lt (by positivity) hlow, zero_add]

theorem toInt_immA (w : Word) : (immA w).toInt = w.toInt / 2 ^ 19 := by
  have htop : (extract w 19 13).toInt = w.toInt / 2 ^ 19 := toInt_extractLsb'_top (n := 13) (o := 19) (by decide) w
  rw [immA, sext, BitVec.toInt_signExtend_of_le (by decide), htop]

theorem toInt_immS (w : Word) : (immS w).toInt = w.toInt / 2 ^ 29 * 1024 + fieldNat w 19 5 * 32 + fieldNat w 4 5 := by
  have htop : (extract w 29 3).toInt = w.toInt / 2 ^ 29 := toInt_extractLsb'_top (n := 3) (o := 29) (by decide) w
  rw [immS, sext, BitVec.toInt_signExtend_of_le (by decide), BitVec.toInt_append, BitVec.toInt_append, if_neg (by decide),
    if_neg (by decide), htop, toNat_extract, toNat_extract]
  ring

theorem toNat_immI (w : Word) : (immI w).toNat = fieldNat w 19 5 := by
  rw [immI, zext, BitVec.toNat_setWidth_of_le (by decide), toNat_extract]

theorem toNat_immU (w : Word) : (immU w).toNat = fieldNat w 13 19 * 2 ^ 13 := by
  have hmask : immU w = w &&& BitVec.allOnes 32 <<< 13 := rfl
  rw [hmask, toNat_and_allOnes_shiftLeft, fieldNat]
  omega

/-- Clearing bit 0 of a sign-extended field rounds its signed value down to an even number. -/
theorem toInt_sext_clear_bit0 {n : Nat} (hn : n ≤ 32) (v : BitVec n) :
    (sext v &&& (0xFFFFFFFE : Word)).toInt = v.toInt / 2 * 2 := by
  have hmask : sext v &&& (0xFFFFFFFE : Word) = sext v &&& BitVec.allOnes 32 <<< 1 := rfl
  have hsext : (sext v).toInt = v.toInt := BitVec.toInt_signExtend_of_le hn
  rw [hmask, ← hsext, BitVec.toInt_eq_toNat_bmod, toNat_and_allOnes_shiftLeft, BitVec.toInt_eq_toNat_bmod]
  simp only [Int.bmod]
  omega

theorem toInt_immF_twelve (w : Word) : (immF .twelve w).toInt =
    (fieldNat w 14 11 * 2 : Nat) - (if fieldNat w 24 1 = 1 then 4096 else 0 : Int) := by
  rw [immF, toInt_sext_clear_bit0 (by decide), BitVec.toInt_eq_toNat_bmod, toNat_extract]
  simp only [Int.bmod, fieldNat]
  omega

theorem toInt_immF_eleven (w : Word) : (immF .eleven w).toInt =
    (fieldNat w 14 10 * 2 : Nat) - (if fieldNat w 23 1 = 1 then 2048 else 0 : Int) := by
  rw [immF, toInt_sext_clear_bit0 (by decide), BitVec.toInt_eq_toNat_bmod, toNat_extract]
  simp only [Int.bmod, fieldNat]
  omega

/-! ## The function code as a number (R108 to R112) -/

theorem bit0_eq_false_iff (w : Word) : w.getLsbD 0 = false ↔ fieldNat w 0 1 = 0 := by
  have hlt : fieldNat w 0 1 < 2 ^ 1 := fieldNat_lt w 0 1
  rw [← Bool.not_eq_true, bit0_iff]
  omega

theorem toNat_append_eq_add {n m : Nat} (x : BitVec n) (y : BitVec m) : (x ++ y).toNat = x.toNat * 2 ^ m + y.toNat := by
  rw [BitVec.toNat_append, ← Nat.shiftLeft_add_eq_or_of_lt y.isLt, Nat.shiftLeft_eq]

theorem toNat_functOf (c : Config) (w : Word) : (functOf c w).toNat =
    if opcodeOf c w = .arith ∧ fieldNat w 0 1 = 0 then
      fieldNat w 24 5 * 256 + fieldNat w 29 3 * 32 + fieldNat w 9 5
    else if opcodeOf c w = .io then fieldNat w 29 3 * 32 + fieldNat w 9 5
    else if opcodeOf c w = .immUpper then fieldNat w 9 4
    else if opcodeOf c w = .func then fieldNat w 9 1
    else fieldNat w 9 5 := by
  have hwide {n : Nat} (hn : n ≤ 13) (v : BitVec n) : (v.setWidth 13).toNat = v.toNat := BitVec.toNat_setWidth_of_le hn
  cases ho : opcodeOf c w <;> simp only [reduceCtorEq, false_and, true_and, if_false, if_true]
  case arith =>
    split
    · next h0 =>
      rw [functOf_arith_reg ho ((bit0_eq_false_iff w).mpr h0), toNat_append_eq_add, toNat_append_eq_add, toNat_extract,
        toNat_extract, toNat_extract]
      omega
    · next h0 =>
      have h1 : w.getLsbD 0 = true := Bool.eq_true_of_not_eq_false (mt (bit0_eq_false_iff w).mp h0)
      rw [functOf_arith_imm ho h1, hwide (by decide), toNat_extract]
  case io =>
    rw [functOf_io ho, hwide (by decide), toNat_append_eq_add, toNat_extract, toNat_extract]
    rfl
  case immUpper => rw [functOf_immUpper ho, hwide (by decide), toNat_extract]
  case func => rw [functOf_func ho, hwide (by decide), toNat_extract]
  all_goals rw [functOf_low (by simp only [ho, List.mem_cons, true_or, or_true]), hwide (by decide), toNat_extract]

/-! ## The obligations about the fields of a word -/

/-- Settles O13: the selectors are the fields of the word, but for the one that Store and the one that ImmUpper forces. -/
theorem selectorFields : Obligations.SelectorFields := by
  intro c w
  refine ⟨?_, ?_, toNat_extract w 19 5, toNat_extract w 24 5⟩
  · rw [decodeFields_rd_eq, apply_ite BitVec.toNat, toNat_extract]
    rfl
  · rw [decodeFields_rs1_eq, apply_ite BitVec.toNat, toNat_extract, toNat_extract]
    rfl

/-- Settles O14: the opcode and the funct as numbers, and each function map on a funct that it lists. -/
theorem opcodeAndFunctFields : Obligations.OpcodeAndFunctFields := by
  intro c w
  refine ⟨opcodeMap_getElem c w, toNat_opcode_bits w, ?_, toNat_functOf c w, fun op hop => ⟨fun ho => ?_, fun ho => ?_⟩,
    fun op hop ho => ?_⟩
  · rw [← bit0_iff]
    exact isImmOf_iff
  · exact decodeWith_arith ho (aluOp_ofFunct_of_map c _ op hop)
  · exact decodeWith_arithSkip ho (aluOp_ofFunct_of_map c _ op hop)
  · have hfunct : (decodeFields c w).funct.toNat = (extract w 9 4).toNat := by
      rw [show (decodeFields c w).funct = functOf c w from rfl, functOf_immUpper ho, BitVec.toNat_setWidth_of_le (by decide)]
    rw [hfunct] at hop
    have himm : (decodeFields c w).imm = immU w := immOf_immUpper ho
    rw [decodeWith_immUpper ho, immUpperInstr_of_map c _ _ _ op hop, himm]

/-- Settles O15: each immediate as a number, then its range. -/
theorem immediateFieldsAIU : Obligations.ImmediateFieldsAIU := by
  refine ⟨fun c w => ⟨fun ho => ?_, fun ho => ?_, fun ho => ?_⟩, by decide, by decide, by decide⟩
  · have himm : (decodeFields c w).imm = immA w := immOf_immA ho
    rw [himm]
    exact ⟨toInt_immA w, of_decide_eq_true (fitsSigned13_sext (extract w 19 13))⟩
  · have himm : (decodeFields c w).imm = immI w := immOf_io ho
    rw [himm, toNat_immI]
    exact ⟨rfl, Nat.le_of_lt_succ (fieldNat_lt w 19 5)⟩
  · have himm : (decodeFields c w).imm = immU w := immOf_immUpper ho
    rw [himm]
    exact ⟨toNat_immU w, rfl⟩

/-- Settles O16: the S-immediate by concatenation, the F-immediate of either width by clearing bit 0. -/
theorem immediateFieldsSF : Obligations.ImmediateFieldsSF := by
  refine fun c w => ⟨fun ho => ?_, fun ho => ?_⟩
  · have himm : (decodeFields c w).imm = immS w := immOf_store ho
    rw [himm, toInt_immS]
  · have himm : (decodeFields c w).imm = immF c.fimmWidth w := immOf_func ho
    rw [himm]
    exact ⟨fun hwidth => hwidth ▸ toInt_immF_twelve w, fun hwidth => hwidth ▸ toInt_immF_eleven w⟩

end Sys2Proof.Machine
end

section
/-! PROOFS. The round trip of the encoding (30_encoding.md R102 to R128): whatever a word decodes to is well formed, and the
word of a well-formed instruction decodes to that instruction. -/

namespace Sys2Proof.Machine

/-! ## The ranges of the decoded immediates (R113 to R117) -/

section Ranges
variable {c : Config} {w : Word}

theorem fitsSigned13_immOf (h : opcodeOf c w ∈ [Opcode.load, .store, .arith, .arithSkip]) :
    fitsSigned13 (immOf c w) = true := by
  simp only [List.mem_cons, List.not_mem_nil, or_false] at h
  rcases h with h | h | h | h <;> simp only [immOf, h] <;> exact fitsSigned13_sext _

theorem fitsFunc12_immF (w : Word) : fitsFunc12 (immF .twelve w) = true := by
  rw [fitsFunc12, toInt_immF_twelve, decide_eq_true_eq]
  unfold fieldNat
  omega

theorem fitsFunc12_immOf (h : opcodeOf Config.reference w = .func) : fitsFunc12 (immOf Config.reference w) = true := by
  rw [immOf_func h]
  exact fitsFunc12_immF w

theorem fitsIo5_immOf (h : opcodeOf c w = .io) : fitsIo5 (immOf c w) = true := by
  rw [immOf_io h, fitsIo5, toNat_immI, decide_eq_true_eq]
  exact Nat.le_of_lt_succ (fieldNat_lt w 19 5)

theorem fitsUpper_immOf (h : opcodeOf c w = .immUpper) : fitsUpper (immOf c w) = true := by
  rw [immOf_immUpper h, fitsUpper, toNat_immU, decide_eq_true_eq]
  exact Nat.mul_mod_left _ _

/-- Where the second operand is an immediate, it is the one of the opcode's shape. -/
theorem fits_src2_of_immOf {fits : Word → Bool} (h : fits (immOf c w) = true) :
    ∀ v, (decodeFields c w).src2 = .imm v → fits v = true := by
  intro v hv
  rcases decodeFields_src2_cases c w with hsrc | hsrc <;> rw [hsrc] at hv <;> cases hv
  exact h

end Ranges

/-! ## The instructions of each unit are well formed -/

section WellFormed
variable {src : Src2} (rd rs1 rs3 : Reg)

theorem wellFormed_arithInstr (op : AluOp) (h : ∀ v, src = .imm v → fitsSigned13 v = true) :
    WellFormed (arithInstr op rd rs1 src) := by
  cases src with
  | reg => cases op <;> rfl
  | imm v => cases op <;> exact h v rfl

theorem wellFormed_arithSkipInstr (op : AluOp) (h : ∀ v, src = .imm v → fitsSigned13 v = true) :
    WellFormed (arithSkipInstr op rd rs1 src) := by
  cases src with
  | reg => cases op <;> rfl
  | imm v => cases op <;> exact h v rfl

theorem wellFormed_loadInstr (op : LoadOp) (h : ∀ v, src = .imm v → fitsSigned13 v = true) :
    WellFormed (loadInstr op rd rs1 src) := by
  cases src with
  | reg => cases op <;> rfl
  | imm v => cases op <;> exact h v rfl

theorem wellFormed_storeInstr (op : StoreOp) (h : ∀ v, src = .imm v → fitsSigned13 v = true) :
    WellFormed (storeInstr op rs3 rs1 src) := by
  cases src with
  | reg => cases op <;> rfl
  | imm v => cases op <;> exact h v rfl

theorem wellFormed_funcInstr (bit : Bool) (h : ∀ v, src = .imm v → fitsFunc12 v = true) :
    WellFormed (funcInstr bit rd rs1 src) := by
  cases src with
  | reg => cases bit <;> rfl
  | imm v =>
    cases bit with
    | false => exact h v rfl
    | true => rfl

theorem ioInstr_of_ne {funct : BitVec 8} (h : funct ≠ 0) : ioInstr funct rd rs1 src rs3 = .ioOther funct rd rs1 src rs3 :=
  if_neg h

theorem immUpperInstr_of_ge (c : Config) {f : BitVec 4} (imm : Word) (h : 8 ≤ f.toNat) :
    immUpperInstr c f rd imm = .immUpperBadFunct f rd imm :=
  dif_neg (Nat.not_lt.mpr h)

theorem wellFormed_ioInstr (funct : BitVec 8) (h : ∀ v, src = .imm v → fitsIo5 v = true) :
    WellFormed (ioInstr funct rd rs1 src rs3) := by
  have hsrc : src.fitsIo = true := by
    cases src with
    | reg => rfl
    | imm v => exact h v rfl
  by_cases hfunct : funct = 0
  · subst hfunct
    cases src with
    | reg => rfl
    | imm v => exact hsrc
  · rw [ioInstr_of_ne _ _ _ hfunct]
    exact Bool.and_eq_true_iff.mpr ⟨decide_eq_true hfunct, hsrc⟩

theorem wellFormed_immUpperInstr (c : Config) (f : BitVec 4) {imm : Word} (h : fitsUpper imm = true) :
    WellFormed (immUpperInstr c f rd imm) := by
  by_cases hf : f.toNat < 8
  · rw [immUpperInstr, dif_pos hf]
    cases c.immuFunctMap[f.toNat] <;> exact h
  · rw [immUpperInstr_of_ge _ _ _ (Nat.not_lt.mp hf)]
    exact Bool.and_eq_true_iff.mpr ⟨decide_eq_true (Nat.not_lt.mp hf), h⟩

end WellFormed

/-! ## The fields of a packed word (R102) -/

section Pack
variable {mid : BitVec 3} {hi rs2 rs1 lo rd : BitVec 5} {op : Opcode} {i : Bool}

theorem decodeFields_pack_rd (h : op ≠ .store) :
    (decodeFields Config.reference (pack mid hi rs2 rs1 lo rd op i)).rd = rd := by
  rw [decodeFields_rd_of_ne (by rwa [opcodeOf_pack]), extract_pack_rd]

theorem decodeFields_pack_rs1 (h : op ≠ .immUpper) :
    (decodeFields Config.reference (pack mid hi rs2 rs1 lo rd op i)).rs1 = rs1 := by
  rw [decodeFields_rs1_of_ne (by rwa [opcodeOf_pack]), extract_pack_rs1]

theorem decodeFields_pack_rs3 : (decodeFields Config.reference (pack mid hi rs2 rs1 lo rd op i)).rs3 = hi :=
  extract_pack_hi ..

theorem functOf_pack_low (h : op ∈ [Opcode.compressed, .load, .store, .arithSkip]) :
    functOf Config.reference (pack mid hi rs2 rs1 lo rd op i) = lo.setWidth 13 := by
  rw [functOf_low (by rwa [opcodeOf_pack]), extract_pack_lo]

theorem decodeFields_pack_src2_reg (h : op ≠ .immUpper) :
    (decodeFields Config.reference (pack mid hi rs2 rs1 lo rd op false)).src2 = .reg rs2 := by
  rw [decodeFields_src2_reg (by rwa [opcodeOf_pack]) (pack_bit0 ..), extract_pack_rs2]

theorem decodeFields_pack_src2_imm : (decodeFields Config.reference (pack mid hi rs2 rs1 lo rd op true)).src2 =
    .imm (immOf Config.reference (pack mid hi rs2 rs1 lo rd op true)) :=
  decodeFields_src2_imm (pack_bit0 ..)

end Pack

/-! ## Each immediate is put together again -/

theorem immA_encodeA (op : Opcode) (lo rd rs1 : BitVec 5) {imm : Word} (h : fitsSigned13 imm = true) :
    immA (encodeA op lo rd rs1 imm) = imm := by
  rw [immA, encodeA, extract_pack_immA, concat_immA, sext_of_fitsSigned13 imm h]

theorem immS_encodeS (lo rs3 rs1 : BitVec 5) {imm : Word} (h : fitsSigned13 imm = true) :
    immS (encodeS lo rs3 rs1 imm) = imm := by
  rw [immS, encodeS, extract_pack_mid, extract_pack_rs2, extract_pack_rd, concat_immA, sext_of_fitsSigned13 imm h]

/-- The F-immediate in the pieces that the format lays it out in: bits 5:1 in rs1, 10:6 in rs2 and 11 in f_hi (R124). -/
theorem immF_encodeF (rd : BitVec 5) {imm : Word} (h : fitsFunc12 imm = true) : immF .twelve (encodeF rd imm) = imm := by
  have hrs1 : fieldNat (encodeF rd imm) 14 5 = fieldNat imm 1 5 := fieldNat_eq_of_extract_eq (extract_pack_rs1 ..)
  have hrs2 : fieldNat (encodeF rd imm) 19 5 = fieldNat imm 6 5 := fieldNat_eq_of_extract_eq (extract_pack_rs2 ..)
  have hhi : fieldNat (encodeF rd imm) 24 5 = fieldNat imm 11 1 := by
    rw [← toNat_extract, encodeF, extract_pack_hi, BitVec.toNat_setWidth_of_le (by decide)]
    exact toNat_extract imm 11 1
  rw [fitsFunc12, decide_eq_true_eq, BitVec.toInt_eq_toNat_bmod] at h
  apply BitVec.eq_of_toInt_eq
  rw [toInt_immF_twelve, BitVec.toInt_eq_toNat_bmod]
  simp only [Int.bmod, fieldNat] at *
  omega

/-- f_lo of format U: the immediate's lowest bit above the function code (R126). -/
theorem fieldNat_encodeU_lo (funct : BitVec 4) (rd : BitVec 5) (imm : Word) :
    fieldNat (encodeU funct rd imm) 9 5 = fieldNat imm 13 1 * 2 ^ 4 + funct.toNat := by
  rw [← toNat_extract, encodeU, extract_pack_lo, toNat_append_eq_add, ← extract, toNat_extract]

/-- The U-immediate stands in place (R126). -/
theorem immU_encodeU (funct : BitVec 4) (rd : BitVec 5) {imm : Word} (h : fitsUpper imm = true) :
    immU (encodeU funct rd imm) = imm := by
  have hlo := fieldNat_encodeU_lo funct rd imm
  have hrs1 : fieldNat (encodeU funct rd imm) 14 5 = fieldNat imm 14 5 := fieldNat_eq_of_extract_eq (extract_pack_rs1 ..)
  have hrs2 : fieldNat (encodeU funct rd imm) 19 5 = fieldNat imm 19 5 := fieldNat_eq_of_extract_eq (extract_pack_rs2 ..)
  have hhi : fieldNat (encodeU funct rd imm) 24 5 = fieldNat imm 24 5 := fieldNat_eq_of_extract_eq (extract_pack_hi ..)
  have hmid : fieldNat (encodeU funct rd imm) 29 3 = fieldNat imm 29 3 := fieldNat_eq_of_extract_eq (extract_pack_mid ..)
  have hfunct : funct.toNat < 16 := funct.isLt
  rw [fitsUpper, decide_eq_true_eq] at h
  apply BitVec.eq_of_toNat_eq
  rw [toNat_immU]
  simp only [fieldNat] at *
  omega

theorem extract_encodeU_funct (funct : BitVec 4) (rd : BitVec 5) (imm : Word) : extract (encodeU funct rd imm) 9 4 = funct := by
  have hlo := fieldNat_encodeU_lo funct rd imm
  have hfunct : funct.toNat < 16 := funct.isLt
  apply BitVec.eq_of_toNat_eq
  rw [toNat_extract]
  simp only [fieldNat] at *
  omega

theorem immI_pack (mid : BitVec 3) (hi rs1 lo rd : BitVec 5) (op : Opcode) (i : Bool) {imm : Word} (h : fitsIo5 imm = true) :
    immI (pack mid hi (imm.extractLsb' 0 5) rs1 lo rd op i) = imm := by
  rw [immI, extract_pack_rs2, zext_of_fitsIo5 imm h]

/-! ## The second operand of an encoded instruction -/

theorem decodeFields_encodeR_src2 {op : Opcode} (lo rd rs1 rs2 hi : BitVec 5) (h : op ≠ .immUpper) :
    (decodeFields Config.reference (encodeR op lo rd rs1 rs2 hi)).src2 = .reg rs2 :=
  decodeFields_pack_src2_reg h

theorem decodeFields_encodeA_src2 {op : Opcode} (lo rd rs1 : BitVec 5) {imm : Word}
    (ho : op ∈ [Opcode.compressed, .load, .arith, .arithSkip]) (h : fitsSigned13 imm = true) :
    (decodeFields Config.reference (encodeA op lo rd rs1 imm)).src2 = .imm imm := by
  have hop : opcodeOf Config.reference (encodeA op lo rd rs1 imm) = op := opcodeOf_pack ..
  have himm : immOf Config.reference (encodeA op lo rd rs1 imm) = imm :=
    (immOf_immA (by rwa [hop])).trans (immA_encodeA op lo rd rs1 h)
  exact decodeFields_pack_src2_imm.trans (congrArg Src2.imm himm)

theorem decodeFields_encodeS_src2 (lo rs3 rs1 : BitVec 5) {imm : Word} (h : fitsSigned13 imm = true) :
    (decodeFields Config.reference (encodeS lo rs3 rs1 imm)).src2 = .imm imm := by
  have himm : immOf Config.reference (encodeS lo rs3 rs1 imm) = imm :=
    (immOf_store (opcodeOf_pack ..)).trans (immS_encodeS lo rs3 rs1 h)
  exact decodeFields_pack_src2_imm.trans (congrArg Src2.imm himm)

theorem decodeFields_encodeF_src2 (rd : BitVec 5) {imm : Word} (h : fitsFunc12 imm = true) :
    (decodeFields Config.reference (encodeF rd imm)).src2 = .imm imm := by
  have himm : immOf Config.reference (encodeF rd imm) = imm := (immOf_func (opcodeOf_pack ..)).trans (immF_encodeF rd h)
  exact decodeFields_pack_src2_imm.trans (congrArg Src2.imm himm)

/-! ## What a packed word decodes to, by opcode -/

section DecodePack
variable (mid : BitVec 3) (hi rs2 rs1 lo rd : BitVec 5) (i : Bool)

theorem decode_pack_load (op : LoadOp) : decode (pack mid hi rs2 rs1 op.funct rd .load i) =
    .ok (loadInstr op rd rs1 (decodeFields Config.reference (pack mid hi rs2 rs1 op.funct rd .load i)).src2) := by
  rw [decode, decodeWith_load (op := op) (opcodeOf_pack ..) (by rw [functOf_pack_low (by decide), loadOp_ofFunct]),
    decodeFields_pack_rd (by decide), decodeFields_pack_rs1 (by decide)]

theorem decode_pack_store (op : StoreOp) : decode (pack mid hi rs2 rs1 op.funct rd .store i) =
    .ok (storeInstr op hi rs1 (decodeFields Config.reference (pack mid hi rs2 rs1 op.funct rd .store i)).src2) := by
  rw [decode, decodeWith_store (op := op) (opcodeOf_pack ..) (by rw [functOf_pack_low (by decide), storeOp_ofFunct]),
    decodeFields_pack_rs3, decodeFields_pack_rs1 (by decide)]

theorem decode_pack_arithSkip (op : AluOp) : decode (pack mid hi rs2 rs1 op.funct rd .arithSkip i) =
    .ok (arithSkipInstr op rd rs1 (decodeFields Config.reference (pack mid hi rs2 rs1 op.funct rd .arithSkip i)).src2) := by
  rw [decode, decodeWith_arithSkip (op := op) (opcodeOf_pack ..) (by rw [functOf_pack_low (by decide), aluOp_ofFunct]),
    decodeFields_pack_rd (by decide), decodeFields_pack_rs1 (by decide)]

theorem decode_pack_func : decode (pack mid hi rs2 rs1 lo rd .func i) = .ok (funcInstr (lo.getLsbD 0) rd rs1
    (decodeFields Config.reference (pack mid hi rs2 rs1 lo rd .func i)).src2) := by
  have hbit (w : Word) : ((extract w 9 1).setWidth 13).getLsbD 0 = (extract w 9 5).getLsbD 0 := by
    simp [extract]
  rw [decode, decodeWith_func (opcodeOf_pack ..), functOf_func (opcodeOf_pack ..), hbit, extract_pack_lo,
    decodeFields_pack_rd (by decide), decodeFields_pack_rs1 (by decide)]

theorem decode_pack_io : decode (pack mid hi rs2 rs1 lo rd .io i) = .ok (ioInstr (mid ++ lo) rd rs1
    (decodeFields Config.reference (pack mid hi rs2 rs1 lo rd .io i)).src2 hi) := by
  rw [decode, decodeWith_io (opcodeOf_pack ..), functOf_io (opcodeOf_pack ..), extract_pack_mid, extract_pack_lo,
    BitVec.setWidth_setWidth_of_le _ (by decide), BitVec.setWidth_eq,
    decodeFields_pack_rd (by decide), decodeFields_pack_rs1 (by decide), decodeFields_pack_rs3]

end DecodePack

/-! ## Each format decodes to what was encoded -/

section Formats
variable (rd rs1 rs2 rs3 : Reg) {imm : Word}

theorem decode_encodeR_arith (op : AluOp) :
    decode (encodeR .arith op.funct rd rs1 rs2 0) = .ok (arithInstr op rd rs1 (.reg rs2)) := by
  have ho : opcodeOf Config.reference (encodeR .arith op.funct rd rs1 rs2 0) = .arith := opcodeOf_pack ..
  have hfunct : AluOp.ofFunct Config.reference (functOf Config.reference (encodeR .arith op.funct rd rs1 rs2 0)) = some op := by
    rw [functOf_arith_reg ho (pack_bit0 ..), encodeR, extract_pack_hi, extract_pack_mid, extract_pack_lo, aluOp_ofFunct_wide]
  rw [decode, decodeWith_arith ho hfunct, decodeFields_encodeR_src2 _ _ _ _ _ (by decide), encodeR,
    decodeFields_pack_rd (by decide), decodeFields_pack_rs1 (by decide)]

theorem decode_encodeA_arith (op : AluOp) (h : fitsSigned13 imm = true) :
    decode (encodeA .arith op.funct rd rs1 imm) = .ok (arithInstr op rd rs1 (.imm imm)) := by
  have ho : opcodeOf Config.reference (encodeA .arith op.funct rd rs1 imm) = .arith := opcodeOf_pack ..
  have hfunct : AluOp.ofFunct Config.reference (functOf Config.reference (encodeA .arith op.funct rd rs1 imm)) = some op := by
    rw [functOf_arith_imm ho (pack_bit0 ..), encodeA, extract_pack_lo, aluOp_ofFunct]
  rw [decode, decodeWith_arith ho hfunct, decodeFields_encodeA_src2 _ _ _ (by decide) h, encodeA,
    decodeFields_pack_rd (by decide), decodeFields_pack_rs1 (by decide)]

theorem decode_encodeR_arithSkip (op : AluOp) :
    decode (encodeR .arithSkip op.funct rd rs1 rs2 0) = .ok (arithSkipInstr op rd rs1 (.reg rs2)) := by
  rw [← decodeFields_encodeR_src2 op.funct rd rs1 rs2 0 (op := .arithSkip) (by decide)]
  exact decode_pack_arithSkip ..

theorem decode_encodeA_arithSkip (op : AluOp) (h : fitsSigned13 imm = true) :
    decode (encodeA .arithSkip op.funct rd rs1 imm) = .ok (arithSkipInstr op rd rs1 (.imm imm)) := by
  rw [← decodeFields_encodeA_src2 op.funct rd rs1 (op := .arithSkip) (by decide) h]
  exact decode_pack_arithSkip ..

theorem decode_encodeR_load (op : LoadOp) :
    decode (encodeR .load op.funct rd rs1 rs2 0) = .ok (loadInstr op rd rs1 (.reg rs2)) := by
  rw [← decodeFields_encodeR_src2 op.funct rd rs1 rs2 0 (op := .load) (by decide)]
  exact decode_pack_load ..

theorem decode_encodeA_load (op : LoadOp) (h : fitsSigned13 imm = true) :
    decode (encodeA .load op.funct rd rs1 imm) = .ok (loadInstr op rd rs1 (.imm imm)) := by
  rw [← decodeFields_encodeA_src2 op.funct rd rs1 (op := .load) (by decide) h]
  exact decode_pack_load ..

theorem decode_encodeR_store (op : StoreOp) :
    decode (encodeR .store op.funct 0 rs1 rs2 rs3) = .ok (storeInstr op rs3 rs1 (.reg rs2)) := by
  rw [← decodeFields_encodeR_src2 op.funct 0 rs1 rs2 rs3 (op := .store) (by decide)]
  exact decode_pack_store ..

theorem decode_encodeS (op : StoreOp) (h : fitsSigned13 imm = true) :
    decode (encodeS op.funct rs3 rs1 imm) = .ok (storeInstr op rs3 rs1 (.imm imm)) := by
  rw [← decodeFields_encodeS_src2 op.funct rs3 rs1 h]
  exact decode_pack_store ..

theorem decode_encodeR_func (lo : BitVec 5) :
    decode (encodeR .func lo rd rs1 rs2 0) = .ok (funcInstr (lo.getLsbD 0) rd rs1 (.reg rs2)) := by
  rw [← decodeFields_encodeR_src2 lo rd rs1 rs2 0 (op := .func) (by decide)]
  exact decode_pack_func ..

/-- R124: bit 9 of format F is the zero below the immediate's lowest bit, so the word is a call. -/
theorem decode_encodeF (h : fitsFunc12 imm = true) : decode (encodeF rd imm) = .ok (.callI rd imm) := by
  have hbit : (imm.extractLsb' 0 1 ++ (0 : BitVec 4)).getLsbD 0 = false := by rw [BitVec.getLsbD_append]; rfl
  rw [encodeF, decode_pack_func, hbit, ← encodeF, decodeFields_encodeF_src2 rd h]
  rfl

theorem decode_encodeIo (funct : BitVec 8) {src : Src2} (h : src.fitsIo = true) :
    decode (encodeIo funct rd rs1 src rs3) = .ok (ioInstr funct rd rs1 src rs3) := by
  have hfunct : funct.extractLsb' 5 3 ++ funct.extractLsb' 0 5 = funct := BitVec.extractLsb'_append_extractLsb'
  cases src with
  | reg rs2 => rw [encodeIo, decode_pack_io, hfunct, decodeFields_pack_src2_reg (by decide)]
  | imm v =>
    rw [encodeIo, decode_pack_io, hfunct, decodeFields_pack_src2_imm, immOf_io (opcodeOf_pack ..),
      immI_pack _ _ _ _ _ _ _ h]

theorem decode_encodeU (funct : BitVec 4) (h : fitsUpper imm = true) :
    decode (encodeU funct rd imm) = .ok (immUpperInstr Config.reference funct rd imm) := by
  have ho : opcodeOf Config.reference (encodeU funct rd imm) = .immUpper := opcodeOf_pack ..
  rw [decode, decodeWith_immUpper ho, extract_encodeU_funct, immU_encodeU funct rd h, encodeU,
    decodeFields_pack_rd (by decide)]

end Formats

/-! ## The obligations about the round trip -/

/-- Settles O11: the immediate is in its format's range, whichever unit the opcode names. -/
theorem decodeYieldsWellFormed : Obligations.DecodeYieldsWellFormed := by
  intro w i h
  obtain ⟨-, rfl⟩ | ⟨ho, op, -, rfl⟩ | ⟨ho, rfl⟩ | ⟨ho, op, -, rfl⟩ | ⟨ho, op, -, rfl⟩ | ⟨ho, rfl⟩ | ⟨ho, op, -, rfl⟩ |
    ⟨ho, rfl⟩ := decodeWith_ok_cases Config.reference w i h
  · rfl
  · exact wellFormed_loadInstr _ _ op (fits_src2_of_immOf (fitsSigned13_immOf (by rw [ho]; decide)))
  · exact wellFormed_funcInstr _ _ _ (fits_src2_of_immOf (fitsFunc12_immOf ho))
  · exact wellFormed_storeInstr _ _ op (fits_src2_of_immOf (fitsSigned13_immOf (by rw [ho]; decide)))
  · exact wellFormed_arithInstr _ _ op (fits_src2_of_immOf (fitsSigned13_immOf (by rw [ho]; decide)))
  · exact wellFormed_ioInstr _ _ _ _ (fits_src2_of_immOf (fitsIo5_immOf ho))
  · exact wellFormed_arithSkipInstr _ _ op (fits_src2_of_immOf (fitsSigned13_immOf (by rw [ho]; decide)))
  · exact wellFormed_immUpperInstr _ _ _ (fitsUpper_immOf ho)

/-- Settles O10: each constructor by the format that it is encoded in. -/
theorem decodeEncode : Obligations.DecodeEncode := by
  intro i h
  cases i with
  | add | sub | and | or | xor | not | mulu | mulhu | mul | mulh | divu | remu | div | rem | shl | shr | sal | sar
  | rol | ror | arithF20 | arithF21 | seq | sne | sgtu | sgt | sgeu | sge | sltu | slt | sleu | sle =>
    exact decode_encodeR_arith ..
  | addI | subI | andI | orI | xorI | notI | muluI | mulhuI | mulI | mulhI | divuI | remuI | divI | remI | shlI
  | shrI | salI | sarI | rolI | rorI | arithF20I | arithF21I | seqI | sneI | sgtuI | sgtI | sgeuI | sgeI | sltuI
  | sltI | sleuI | sleI =>
    exact decode_encodeA_arith _ _ _ h
  | addSk | subSk | andSk | orSk | xorSk | notSk | muluSk | mulhuSk | mulSk | mulhSk | divuSk | remuSk | divSk
  | remSk | shlSk | shrSk | salSk | sarSk | rolSk | rorSk | arithF20Sk | arithF21Sk | seqSk | sneSk | sgtuSk | sgtSk
  | sgeuSk | sgeSk | sltuSk | sltSk | sleuSk | sleSk =>
    exact decode_encodeR_arithSkip ..
  | addISk | subISk | andISk | orISk | xorISk | notISk | muluISk | mulhuISk | mulISk | mulhISk | divuISk | remuISk
  | divISk | remISk | shlISk | shrISk | salISk | sarISk | rolISk | rorISk | arithF20ISk | arithF21ISk | seqISk
  | sneISk | sgtuISk | sgtISk | sgeuISk | sgeISk | sltuISk | sltISk | sleuISk | sleISk =>
    exact decode_encodeA_arithSkip _ _ _ h
  | lw | lhu | lh | lbu | lb =>
    exact decode_encodeR_load ..
  | lwI | lhuI | lhI | lbuI | lbI =>
    exact decode_encodeA_load _ _ _ h
  | sw | sh | sb =>
    exact decode_encodeR_store ..
  | swI | shI | sbI =>
    exact decode_encodeS _ _ _ h
  | uadd | usub | uand | uor | uxor | umerge | immUpperF6 | immUpperF7 =>
    exact decode_encodeU _ _ h
  | immUpperBadFunct funct rd imm =>
    obtain ⟨hfunct, himm⟩ := Bool.and_eq_true_iff.mp h
    rw [encode, decode_encodeU rd funct himm, immUpperInstr_of_ge _ _ _ (of_decide_eq_true hfunct)]
  | call | ret => exact decode_encodeR_func ..
  | callI => exact decode_encodeF _ h
  | io => exact decode_encodeIo _ _ _ 0 rfl
  | ioI rd rs1 imm rs3 => exact decode_encodeIo rd rs1 rs3 0 (src := .imm imm) h
  | ioOther funct rd rs1 src rs3 =>
    obtain ⟨hfunct, hsrc⟩ := Bool.and_eq_true_iff.mp h
    rw [encode, decode_encodeIo rd rs1 rs3 funct hsrc, ioInstr_of_ne _ _ _ (of_decide_eq_true hfunct)]
  | compressed => exact decodeWith_compressed rfl

end Sys2Proof.Machine
end

section
/-! PROOFS. The bits that a format does not read (30_encoding.md R121 to R127, R130): words that agree elsewhere decode alike. -/

namespace Sys2Proof.Machine

/-! ## Words that agree under a mask -/

section Agree
variable {m w w' : Word} {o n : Nat}

/-- Words that agree under a mask agree in every field that the mask keeps whole. -/
theorem extract_eq_of_and_eq (h : w &&& m = w' &&& m) (hm : extract m o n = BitVec.allOnes n) :
    extract w o n = extract w' o n := by
  have hkept (v : Word) : extract (v &&& m) o n = extract v o n := by
    rw [extract, BitVec.extractLsb'_and, ← extract, ← extract, hm, BitVec.and_allOnes]
  rw [← hkept w, h, hkept w']

theorem fieldNat_of_and_eq {k : Nat} (h : w &&& m = w' &&& m) (hm : extract m o n = BitVec.allOnes n)
    (hw : fieldNat w o n = k) : fieldNat w' o n = k := by
  rw [← hw, fieldNat_eq_of_extract_eq (extract_eq_of_and_eq h hm)]

theorem opcodeOf_eq_of_and_eq (c : Config) (h : w &&& m = w' &&& m) (hm : extract m 1 3 = BitVec.allOnes 3) :
    opcodeOf c w = opcodeOf c w' := by
  rw [opcodeOf, extract_eq_of_and_eq h hm, opcodeOf]

end Agree

/-! ## What decoding reads, by opcode -/

section Reads
variable {c : Config} {w w' : Word}

/-- In register form, the units that check their function code read f_lo, rs1, rs2, and either rd or, for a Store, rs3. -/
theorem decodeWith_congr_reg (ho : opcodeOf c w ∈ [Opcode.load, .store, .arithSkip]) (hop : opcodeOf c w = opcodeOf c w')
    (h0 : w.getLsbD 0 = false) (h0' : w'.getLsbD 0 = false) (hlo : extract w 9 5 = extract w' 9 5)
    (hrs1 : extract w 14 5 = extract w' 14 5) (hrs2 : extract w 19 5 = extract w' 19 5)
    (hrd : opcodeOf c w ≠ .store → extract w 4 5 = extract w' 4 5)
    (hrs3 : opcodeOf c w = .store → extract w 24 5 = extract w' 24 5) : decodeWith c w = decodeWith c w' := by
  have hupper : opcodeOf c w ≠ .immUpper := fun h => by rw [h] at ho; exact absurd ho (by decide)
  have hfunct : functOf c w = functOf c w' := by
    have hlow : opcodeOf c w ∈ [Opcode.compressed, .load, .store, .arithSkip] := List.mem_cons_of_mem _ ho
    rw [functOf_low hlow, functOf_low (hop ▸ hlow), hlo]
  have hreads (v : Word) : (decodeFields c v).opcode = opcodeOf c v ∧ (decodeFields c v).funct = functOf c v ∧
    (decodeFields c v).rs3 = extract v 24 5 := ⟨rfl, rfl, rfl⟩
  simp only [decodeWith, Fields.toInstr, hreads, decodeFields_rs1_of_ne hupper, decodeFields_rs1_of_ne (hop ▸ hupper),
    decodeFields_src2_reg hupper h0, decodeFields_src2_reg (hop ▸ hupper) h0', ← hop, ← hfunct, ← hrs1, ← hrs2]
  by_cases hstore : opcodeOf c w = .store
  · simp only [hstore, hrs3 hstore]
  · rw [decodeFields_rd_of_ne hstore, decodeFields_rd_of_ne (hop ▸ hstore), hrd hstore]
    simp only [List.mem_cons, List.not_mem_nil, or_false] at ho
    rcases ho with ho | ho | ho
    · simp only [ho]
    · exact absurd ho hstore
    · simp only [ho]

theorem functOf_func_bit (h : opcodeOf c w = .func) : (functOf c w).getLsbD 0 = decide (fieldNat w 9 1 = 1) := by
  have hlt : fieldNat w 9 1 < 2 := fieldNat_lt w 9 1
  rw [functOf_func h, BitVec.getLsbD, Nat.testBit_zero, BitVec.toNat_setWidth_of_le (by decide), toNat_extract,
    Nat.mod_eq_of_lt hlt]

theorem decodeWith_call (h : opcodeOf c w = .func) (h9 : fieldNat w 9 1 = 0) (h0 : fieldNat w 0 1 = 0) :
    decodeWith c w = .ok (.call (extract w 4 5) (extract w 19 5)) := by
  have hupper : opcodeOf c w ≠ .immUpper := by rw [h]; decide
  rw [decodeWith_func h, functOf_func_bit h, h9, decodeFields_rd_of_ne (by rw [h]; decide),
    decodeFields_src2_reg hupper ((bit0_eq_false_iff w).mpr h0)]
  rfl

theorem decodeWith_callI (h : opcodeOf c w = .func) (h9 : fieldNat w 9 1 = 0) (h0 : fieldNat w 0 1 = 1) :
    decodeWith c w = .ok (.callI (extract w 4 5) (immF c.fimmWidth w)) := by
  rw [decodeWith_func h, functOf_func_bit h, h9, decodeFields_rd_of_ne (by rw [h]; decide),
    decodeFields_src2_imm ((bit0_iff w).mpr h0), immOf_func h]
  rfl

/-- R127: a return reads rs1 alone, in either mode. -/
theorem decodeWith_ret (h : opcodeOf c w = .func) (h9 : fieldNat w 9 1 = 1) :
    decodeWith c w = .ok (.ret (extract w 14 5)) := by
  rw [decodeWith_func h, functOf_func_bit h, h9, decodeFields_rs1_of_ne (by rw [h]; decide)]
  rcases decodeFields_src2_cases c w with hsrc | hsrc <;> rw [hsrc] <;> rfl

/-- Word bit 13 is cleared in the F-immediate, so that bits 24:14 decide it in either width (R115). -/
theorem immF_congr (fw : FimmWidth) (h : extract w 14 11 = extract w' 14 11) : immF fw w = immF fw w' := by
  have hbits : fieldNat w 14 11 = fieldNat w' 14 11 := fieldNat_eq_of_extract_eq h
  apply BitVec.eq_of_toInt_eq
  cases fw with
  | twelve =>
    have hsign : fieldNat w 24 1 = fieldNat w' 24 1 := by unfold fieldNat at *; omega
    rw [toInt_immF_twelve, toInt_immF_twelve, hbits, hsign]
  | eleven =>
    have hlow : fieldNat w 14 10 = fieldNat w' 14 10 := by unfold fieldNat at *; omega
    have hsign : fieldNat w 23 1 = fieldNat w' 23 1 := by unfold fieldNat at *; omega
    rw [toInt_immF_eleven, toInt_immF_eleven, hlow, hsign]

theorem immU_congr (h : extract w 13 19 = extract w' 13 19) : immU w = immU w' := by
  apply BitVec.eq_of_toNat_eq
  rw [toNat_immU, toNat_immU, fieldNat_eq_of_extract_eq h]

end Reads

/-! ## The mask of each form keeps what the form reads -/

section Masks
variable {c : Config} {w w' : Word}

theorem decodeWith_congr_load_arithSkip (ho : opcodeOf c w = .load ∨ opcodeOf c w = .arithSkip) (h0 : fieldNat w 0 1 = 0)
    (h : w &&& 0x00FFFFFF = w' &&& 0x00FFFFFF) : decodeWith c w = decodeWith c w' := by
  have hmem : opcodeOf c w ∈ [Opcode.load, .store, .arithSkip] := by rcases ho with ho | ho <;> rw [ho] <;> decide
  have hne : opcodeOf c w ≠ .store := by rcases ho with ho | ho <;> rw [ho] <;> decide
  exact decodeWith_congr_reg hmem (opcodeOf_eq_of_and_eq c h (by decide)) ((bit0_eq_false_iff w).mpr h0)
    ((bit0_eq_false_iff w').mpr (fieldNat_of_and_eq h (by decide) h0)) (extract_eq_of_and_eq h (by decide))
    (extract_eq_of_and_eq h (by decide)) (extract_eq_of_and_eq h (by decide)) (fun _ => extract_eq_of_and_eq h (by decide))
    (fun hstore => absurd hstore hne)

theorem decodeWith_congr_store (ho : opcodeOf c w = .store) (h0 : fieldNat w 0 1 = 0)
    (h : w &&& 0x1FFFFE0F = w' &&& 0x1FFFFE0F) : decodeWith c w = decodeWith c w' :=
  decodeWith_congr_reg (by rw [ho]; decide) (opcodeOf_eq_of_and_eq c h (by decide)) ((bit0_eq_false_iff w).mpr h0)
    ((bit0_eq_false_iff w').mpr (fieldNat_of_and_eq h (by decide) h0)) (extract_eq_of_and_eq h (by decide))
    (extract_eq_of_and_eq h (by decide)) (extract_eq_of_and_eq h (by decide)) (fun hne => absurd ho hne)
    (fun _ => extract_eq_of_and_eq h (by decide))

theorem decodeWith_congr_call (ho : opcodeOf c w = .func) (h9 : fieldNat w 9 1 = 0) (h0 : fieldNat w 0 1 = 0)
    (h : w &&& 0x00F803FF = w' &&& 0x00F803FF) : decodeWith c w = decodeWith c w' := by
  have ho' : opcodeOf c w' = .func := (opcodeOf_eq_of_and_eq c h (by decide)).symm.trans ho
  have hrd : extract w 4 5 = extract w' 4 5 := extract_eq_of_and_eq h (by decide)
  have hrs2 : extract w 19 5 = extract w' 19 5 := extract_eq_of_and_eq h (by decide)
  rw [decodeWith_call ho h9 h0, decodeWith_call ho' (fieldNat_of_and_eq h (by decide) h9)
    (fieldNat_of_and_eq h (by decide) h0), hrd, hrs2]

theorem decodeWith_congr_callI (ho : opcodeOf c w = .func) (h9 : fieldNat w 9 1 = 0) (h0 : fieldNat w 0 1 = 1)
    (h : w &&& 0x01FFC3FF = w' &&& 0x01FFC3FF) : decodeWith c w = decodeWith c w' := by
  have ho' : opcodeOf c w' = .func := (opcodeOf_eq_of_and_eq c h (by decide)).symm.trans ho
  have hrd : extract w 4 5 = extract w' 4 5 := extract_eq_of_and_eq h (by decide)
  rw [decodeWith_callI ho h9 h0, decodeWith_callI ho' (fieldNat_of_and_eq h (by decide) h9)
    (fieldNat_of_and_eq h (by decide) h0), hrd, immF_congr _ (extract_eq_of_and_eq h (by decide))]

theorem decodeWith_congr_ret (ho : opcodeOf c w = .func) (h9 : fieldNat w 9 1 = 1)
    (h : w &&& 0x0007C20E = w' &&& 0x0007C20E) : decodeWith c w = decodeWith c w' := by
  have ho' : opcodeOf c w' = .func := (opcodeOf_eq_of_and_eq c h (by decide)).symm.trans ho
  have hrs1 : extract w 14 5 = extract w' 14 5 := extract_eq_of_and_eq h (by decide)
  rw [decodeWith_ret ho h9, decodeWith_ret ho' (fieldNat_of_and_eq h (by decide) h9), hrs1]

theorem decodeWith_congr_immUpper (ho : opcodeOf c w = .immUpper) (h : w &&& 0xFFFFFFFE = w' &&& 0xFFFFFFFE) :
    decodeWith c w = decodeWith c w' := by
  have ho' : opcodeOf c w' = .immUpper := (opcodeOf_eq_of_and_eq c h (by decide)).symm.trans ho
  have hfunct : extract w 9 4 = extract w' 9 4 := extract_eq_of_and_eq h (by decide)
  have hrd : extract w 4 5 = extract w' 4 5 := extract_eq_of_and_eq h (by decide)
  rw [decodeWith_immUpper ho, decodeWith_immUpper ho', decodeFields_rd_of_ne (by rw [ho]; decide),
    decodeFields_rd_of_ne (by rw [ho']; decide), hfunct, hrd, immU_congr (extract_eq_of_and_eq h (by decide))]

theorem decodeWith_congr_compressed (ho : opcodeOf c w = .compressed) (h : w &&& 0x0000000E = w' &&& 0x0000000E) :
    decodeWith c w = decodeWith c w' := by
  have ho' : opcodeOf c w' = .compressed := (opcodeOf_eq_of_and_eq c h (by decide)).symm.trans ho
  rw [decodeWith_compressed ho, decodeWith_compressed ho']

end Masks

/-! ## The obligation -/

/-- Settles O17: under each mask stand all the fields that the form reads. -/
theorem ignoredBits : Obligations.IgnoredBits := fun _ _ _ =>
  ⟨decodeWith_congr_load_arithSkip, decodeWith_congr_store, decodeWith_congr_call, decodeWith_congr_callI,
    decodeWith_congr_ret, decodeWith_congr_immUpper, decodeWith_congr_compressed⟩

end Sys2Proof.Machine
end

section
/-! PROOFS. The cycle (40_cycle.md R150 to R164): how it fetches, what a placed word does, what a step that completes leaves
unchanged by the opcode of its word, and how a run ends. -/

namespace Sys2Proof.Machine

/-! ## The fetch (R151, R152) -/

/-- The fetch answers exactly as a read of the word at the code address does (20_memory.md R53, R55 to R67). -/
theorem State.fetch_eq_ok_iff (s : State) (w : Word) :
    s.fetch = .ok w ↔
      ReadableAt s.mem .word (codeAddress s.cfg s.pc) ∧ w.toNat = leSum s.mem (codeAddress s.cfg s.pc) 4 := by
  rw [State.fetch, Memory.read_eq_ok_iff, Memory.readError_eq_none_iff, toNat_fetchAddrOf, ← BitVec.toNat_inj,
    Memory.toNat_valueAt]
  rfl

theorem State.fetch_eq_error_iff (s : State) (e : MemError) :
    s.fetch = .error e ↔ s.mem.readError .word (codeAddress s.cfg s.pc) = some e := by
  rw [State.fetch, Memory.read_eq_error_iff, toNat_fetchAddrOf]

theorem step_of_fetch_error {s : State} {e : MemError} (h : s.fetch = .error e) : step s = .fault (.memory e) := by
  simp only [step, h, raise]

theorem step_of_decode {s : State} {w : Word} {i : Instr} (hfetch : s.fetch = .ok w)
    (hdecode : decodeWith s.cfg w = .ok i) : step s = exec i s := by
  simp only [step, hfetch, hdecode]

/-- A pc that counts instructions always names an aligned word. -/
theorem codeAddress_word_aligned {c : Config} (h : c.pcUnit = .word) (pc : Word) : codeAddress c pc % 4 = 0 := by
  simp only [codeAddress, h]
  omega

/-! ## A word placed in memory (20_memory.md R59, 70_reset_and_hazards.md R453) -/

/-- Putting a value changes bytes only, so it leaves which reads are in range. -/
theorem readRange_putValue_iff (m : Memory) (w w' : Width) (a b : Nat) (v : Word) :
    ReadRange (m.putValue w a v) w' b ↔ ReadRange m w' b := by
  simp only [ReadRange, Memory.putValue_backend, Memory.putValue_blocks]

/-- Placing a word first brings the address into the range of the backend, then puts the word. -/
theorem Memory.place_eq_putValue (m : Memory) (a : Nat) (w : Word) :
    ∃ m', m.place a w = m'.putValue .word a w ∧ ReadRange m' .word a := by
  have hallocated (hm : m.Blocked) : ReadRange (m.allocate a) .word a :=
    readRange_of_block (fun size => m.allocate_backend a ▸ hm size) .word
      ((m.mem_blocks_allocate a _).mpr (.inr ⟨hm, rfl⟩))
  cases hb : m.backend with
  | flat size => exact ⟨{ m with backend := .flat (max size (a + 4)) }, by simp only [place, hb], Nat.le_max_right _ _⟩
  | sparse => exact ⟨m.allocate a, by simp only [place, hb], hallocated fun size => by simp [hb]⟩
  | split len =>
    by_cases ha : a < len
    · exact ⟨m, by simp only [place, hb, if_pos ha], by simpa only [ReadRange, hb] using Or.inl ha⟩
    · exact ⟨m.allocate a, by simp only [place, hb, if_neg ha], hallocated fun size => by simp [hb]⟩

theorem Memory.read_place (m : Memory) (a w : Word) (hal : a.toNat % 4 = 0) :
    (m.place a.toNat w).read .word a = .ok w := by
  obtain ⟨m', hplace, hrange⟩ := m.place_eq_putValue a.toNat w
  have hreadable : ReadableAt (m'.putValue .word a.toNat w) .word a.toNat :=
    ⟨hal, (readRange_putValue_iff m' .word .word a.toNat a.toNat w).mpr hrange⟩
  have hbytes (k : Nat) (hk : k < Width.word.bytes) :
      ((m'.putValue .word a.toNat w).byteAt (a.toNat + k)).toNat = w.toNat / 256 ^ k % 256 := by
    rw [Memory.byteAt_putValue, if_pos (by omega), Nat.add_sub_cancel_left, BitVec.extractLsb'_toNat,
      Nat.shiftRight_eq_div_pow, Nat.pow_mul]
  rw [hplace, Memory.read_of_bytes _ .word a w.toNat hreadable hbytes, show 256 ^ Width.word.bytes = 2 ^ 32 from rfl,
    Nat.mod_eq_of_lt w.isLt, BitVec.ofNat_toNat, BitVec.setWidth_eq]

theorem fetchablePcOf_word {c : Config} (h : c.pcUnit = .word) (pc : Word) : fetchablePcOf c pc = pc := by
  simp only [fetchablePcOf, h]

/-- The pc that a word is placed at can be fetched at: a pc that counts bytes has lost its two low bits. -/
theorem fetchAddrOf_fetchablePcOf_aligned (c : Config) (pc : Word) :
    (fetchAddrOf c (fetchablePcOf c pc)).toNat % 4 = 0 := by
  cases hunit : c.pcUnit with
  | word =>
    simp only [fetchAddrOf, hunit]
    bv_omega
  | byte =>
    have hmask : fetchAddrOf c (fetchablePcOf c pc) = pc &&& BitVec.allOnes 32 <<< 2 := by
      simp only [fetchAddrOf, fetchablePcOf, hunit]
      rfl
    rw [hmask, toNat_and_allOnes_shiftLeft]
    exact Nat.mul_mod_left _ _

@[simp] theorem State.placeAtPc_cfg (s : State) (w : Word) : (s.placeAtPc w).cfg = s.cfg := rfl
@[simp] theorem State.placeAtPc_io (s : State) (w : Word) : (s.placeAtPc w).io = s.io := rfl

theorem State.reg_placeAtPc (s : State) (w : Word) (r : Reg) :
    (s.placeAtPc w).reg r = if r = 2 then fetchablePcOf s.cfg s.pc else s.reg r :=
  s.reg_setPc r (fetchablePcOf s.cfg s.pc)

theorem State.pc_placeAtPc (s : State) (w : Word) : (s.placeAtPc w).pc = fetchablePcOf s.cfg s.pc :=
  s.reg_placeAtPc w 2

theorem State.fetch_placeAtPc (s : State) (w : Word) : (s.placeAtPc w).fetch = .ok w := by
  rw [State.fetch, State.placeAtPc_cfg, State.pc_placeAtPc]
  exact s.mem.read_place _ w (fetchAddrOf_fetchablePcOf_aligned s.cfg s.pc)

/-! ## What a step that completes has done, by the opcode of its word (R155 to R162) -/

/-- A writeback that moves no window writes no selector but the pc and, with a value, its destination (R159, R160). -/
theorem writeback_reg_of_ne {out : ExecOut} {rd : Reg} {s t : State} (h : writeback out rd s = .next t)
    (hcall : ∀ l g, out ≠ .call l g) (hret : ∀ c, out ≠ .ret c) {r : Reg} (hpc : r ≠ 2)
    (hrd : out = .nothing ∨ r ≠ rd) : t.reg r = s.reg r := by
  cases out with
  | value v =>
    obtain rfl := Host.Outcome.next.inj h
    exact (s.writesBack_setReg rd v _).others r (hrd.resolve_left nofun) hpc
  | skip v =>
    obtain rfl := Host.Outcome.next.inj h
    exact (s.writesBack_setReg rd v _).others r (hrd.resolve_left nofun) hpc
  | nothing =>
    rw [writeback_nothing] at h
    obtain rfl := Host.Outcome.next.inj h
    rw [s.reg_setPc, if_neg hpc]
  | call l g => exact absurd rfl (hcall l g)
  | ret c => exact absurd rfl (hret c)

/-- A step of the word w from s to t: its unit leaves u, with the registers of s, and its outcome out is written back. Only the
opcode of w, and bit 9 of a Func word, say what the unit may change, which outcome it has and where a value goes. -/
structure StepOf (w : Word) (s u t : State) (out : ExecOut) (rd : Reg) : Prop where
  back : writeback out rd u = .next t
  regs : u.regs = s.regs
  mem : opcodeOf s.cfg w ≠ .store → opcodeOf s.cfg w ≠ .io → u.mem = s.mem
  io : opcodeOf s.cfg w ≠ .io → u.io = s.io
  call : opcodeOf s.cfg w = .func → fieldNat w 9 1 = 0 → ∃ l g, out = .call l g
  ret : opcodeOf s.cfg w = .func → fieldNat w 9 1 = 1 → ∃ c, out = .ret c
  noWindow : opcodeOf s.cfg w ≠ .func → (∀ l g, out ≠ .call l g) ∧ ∀ c, out ≠ .ret c
  store : opcodeOf s.cfg w = .store → out = .nothing
  dest : opcodeOf s.cfg w ≠ .func → opcodeOf s.cfg w ≠ .store → rd = extract w 4 5

/-- The opcode of the word, with bit 9 of a Func word, settles each field: it rules the case out or names the outcome. -/
theorem step_next_stepOf {s t : State} {w : Word} (hfetch : s.fetch = .ok w) (hstep : step s = .next t) :
    ∃ u out rd, StepOf w s u t out rd := by
  rcases step_next_by_opcode s t w hfetch hstep with ⟨ho, v, hback⟩ | ⟨ho, hbit, l, g, hback⟩ | ⟨ho, hbit, c, hback⟩ |
    ⟨ho, m, hback⟩ | ⟨ho, v, hback⟩ | ⟨ho, v, io, m, hback⟩ | ⟨ho, v, hback⟩ | ⟨ho, v, hback⟩ <;>
    exact ⟨_, _, _,
      { back := hback
        regs := rfl
        mem := by simp [ho]
        io := by simp [ho]
        call := by simp [*]
        ret := by simp [*]
        noWindow := by simp [ho]
        store := by simp [ho]
        dest := by simp [ho] }⟩

/-! ## How a run ends (R164) -/

/-- The outcome of the cycle that ends a run. -/
def Stop.outcome : Stop → Result
  | .fault f => .fault f
  | .refusal r => .refused r

/-- A cycle completes, or it stops a run. -/
theorem step_cases (s : State) : (∃ t, step s = .next t) ∨ ∃ x : Stop, step s = x.outcome := by
  cases h : step s with
  | next t => exact .inl ⟨t, rfl⟩
  | fault f => exact .inr ⟨.fault f, rfl⟩
  | refused r => exact .inr ⟨.refusal r, rfl⟩

theorem runFor_succ_of_next {s t : State} (h : step s = .next t) (n : Nat) :
    runFor (n + 1) s = { runFor n t with cycles := (runFor n t).cycles + 1 } := by
  simp only [runFor, h]

theorem runFor_succ_of_stop {s : State} {x : Stop} (h : step s = x.outcome) (n : Nat) :
    runFor (n + 1) s = { cycles := 0, state := s, stop := some x } := by
  cases x <;> simp only [runFor, h, Stop.outcome]

/-- The cycle from the last state of a run that has ended is the one that ended it. -/
theorem step_runFor_of_stop {n : Nat} {s : State} {x : Stop} (h : (runFor n s).stop = some x) :
    step (runFor n s).state = x.outcome := by
  induction n generalizing s with
  | zero => cases h
  | succ n ih =>
    rcases step_cases s with ⟨t, hnext⟩ | ⟨y, hstop⟩
    · rw [runFor_succ_of_next hnext] at h ⊢
      exact ih h
    · rw [runFor_succ_of_stop hstop] at h ⊢
      exact Option.some.inj h ▸ hstop

/-- More cycles add nothing to a run that has ended. -/
theorem runFor_add_of_stop {n : Nat} {s : State} {x : Stop} (h : (runFor n s).stop = some x) (k : Nat) :
    runFor (n + k) s = runFor n s := by
  induction n generalizing s with
  | zero => cases h
  | succ n ih =>
    rw [Nat.add_right_comm]
    rcases step_cases s with ⟨t, hnext⟩ | ⟨y, hstop⟩
    · rw [runFor_succ_of_next hnext] at h
      rw [runFor_succ_of_next hnext, runFor_succ_of_next hnext, ih h]
    · rw [runFor_succ_of_stop hstop, runFor_succ_of_stop hstop]

/-- A run that has not ended has completed all its cycles. -/
theorem runFor_cycles_of_stop_none {n : Nat} {s : State} (h : (runFor n s).stop = none) : (runFor n s).cycles = n := by
  induction n generalizing s with
  | zero => rfl
  | succ n ih =>
    rcases step_cases s with ⟨t, hnext⟩ | ⟨y, hstop⟩
    · rw [runFor_succ_of_next hnext] at h ⊢
      exact congrArg (· + 1) (ih h)
    · rw [runFor_succ_of_stop hstop] at h
      cases h

/-! ## The obligations -/

/-- Settles O56: a writeback touches registers only, so memory and port are as the unit left them. -/
theorem onlyStoreAndIoChangeMemory : Obligations.OnlyStoreAndIoChangeMemory := by
  intro s t w hfetch hstep
  obtain ⟨u, out, rd, hof⟩ := step_next_stepOf hfetch hstep
  obtain ⟨hmem, hio, -⟩ := writeback_keeps out rd u t hof.back
  exact ⟨fun hstore hne => hmem.trans (hof.mem hstore hne), fun hne => hio.trans (hof.io hne)⟩

/-- Settles O57: the outcome of the word's unit says which way the windows move, and only Func has one that moves them. -/
theorem onlyFuncChangesWindows : Obligations.OnlyFuncChangesWindows := by
  intro s t w hfetch hstep
  obtain ⟨u, out, rd, hof⟩ := step_next_stepOf hfetch hstep
  obtain ⟨hcall, hret, hkeep⟩ := writeback_depth out rd u t hof.back
  rw [hof.regs] at hcall hret hkeep
  refine ⟨fun ho => ?_, fun ho hbit => ?_, fun ho hbit => ?_⟩
  · obtain ⟨hnoCall, hnoRet⟩ := hof.noWindow ho
    obtain ⟨hbelow, hlocals⟩ := hkeep hnoCall hnoRet
    exact ⟨congrArg (List.length · + 2) hbelow, hbelow, hlocals⟩
  · obtain ⟨l, g, hout⟩ := hof.call ho hbit
    exact (hcall l g hout).1
  · obtain ⟨c, hout⟩ := hof.ret ho hbit
    exact hret c hout

/-- Settles O58: the writeback of a value writes selectors 2 and 8:4 of the word, and that of a Store selector 2 only. -/
theorem oneDestinationPerStep : Obligations.OneDestinationPerStep := by
  intro s t w hfetch hstep ho
  obtain ⟨u, out, rd, hof⟩ := step_next_stepOf hfetch hstep
  obtain ⟨hnoCall, hnoRet⟩ := hof.noWindow ho
  have hframe (r : Reg) (hpc : r ≠ 2) (hrd : out = .nothing ∨ r ≠ rd) : t.reg r = s.reg r :=
    (writeback_reg_of_ne hof.back hnoCall hnoRet hpc hrd).trans (congrArg (RegFile.read · r) hof.regs)
  refine ⟨fun r hpc hne => hframe r hpc ?_, fun hstore r hpc => hframe r hpc (.inl (hof.store hstore))⟩
  by_cases hstore : opcodeOf s.cfg w = .store
  · exact .inl (hof.store hstore)
  · refine .inr fun hr => hne ?_
    rw [hr, hof.dest ho hstore, toNat_extract]

/-- Settles O60: by induction on the number of cycles, each clause once. -/
theorem runStopsForGood : Obligations.RunStopsForGood := fun _ _ =>
  ⟨fun _ h k => runFor_add_of_stop h k, fun _ h => step_runFor_of_stop h, fun _ h => step_runFor_of_stop h,
    runFor_cycles_of_stop_none⟩

/-- Settles O20: the placed word is what the step fetches, and placing moves no selector but the pc. -/
theorem placedWordRuns : Obligations.PlacedWordRuns := by
  intro s nbits w i hdecode
  unfold State.withFetchWord
  refine ⟨step_of_decode (s.fetch_placeAtPc _) hdecode, s.placeAtPc_cfg _, s.placeAtPc_io _, fun r hr => ?_, fun hunit => ?_⟩
  · rw [s.reg_placeAtPc, if_neg hr]
  · rw [s.pc_placeAtPc, fetchablePcOf_word hunit]

/-- Settles O19: a fetch fails as the word read at its code address fails, alignment before range. -/
theorem fetchErrorStopsStep : Obligations.FetchErrorStopsStep := by
  refine fun s => ⟨fun hal => ?_, fun hal hrange => ?_, fun hunit => codeAddress_word_aligned hunit s.pc⟩
  · exact step_of_fetch_error ((s.fetch_eq_error_iff _).mpr (s.mem.readError_unaligned .word _ hal))
  · exact step_of_fetch_error ((s.fetch_eq_error_iff _).mpr (s.mem.readError_range .word _ hal hrange))

/-- Settles O18: the readable word at the code address is the fetched one. -/
theorem stepRunsDecodedInstruction : Obligations.StepRunsDecodedInstruction :=
  fun s w _ hreadable hsum hdecode => step_of_decode ((s.fetch_eq_ok_iff w).mpr ⟨hreadable, hsum⟩) hdecode

end Sys2Proof.Machine
end

section
/-! PROOFS. The values of the arithmetic unit (41_arith.md R203 to R241) as numbers and bits: what each function gives for every
pair of operands, in the words of the statements about it. -/

namespace Sys2Proof.Machine

/-! ## Products (R216 to R219) -/

theorem toNat_aluMulhu (a b : Word) : (aluMulhu a b).toNat = a.toNat * b.toNat / 2 ^ 32 := by
  have hprod : a.toNat * b.toNat < 2 ^ 32 * 2 ^ 32 := Nat.mul_lt_mul'' a.isLt b.isLt
  rw [aluMulhu, BitVec.toNat_ofNat, Nat.mod_eq_of_lt (Nat.div_lt_of_lt_mul hprod)]

theorem toNat_aluMul (a b : Word) : ((aluMul a b).toNat : Int) = a.toInt * b.toInt % 2 ^ 32 := by
  rw [aluMul, BitVec.toNat_ofInt, Int.toNat_of_nonneg (Int.emod_nonneg _ (by decide))]
  rfl

/-- The product of two signed words is at most 2^62 in size, so its upper word is a signed word. -/
theorem toInt_aluMulh (a b : Word) : (aluMulh a b).toInt = a.toInt * b.toInt / 2 ^ 32 := by
  have hlow : -2 ^ 62 ≤ a.toInt * b.toInt := BitVec.le_toInt_mul_toInt
  have hhigh : a.toInt * b.toInt ≤ 2 ^ 62 := BitVec.toInt_mul_toInt_le
  rw [aluMulh, BitVec.toInt_ofInt_eq_self (by decide) (by omega) (by omega)]

/-! ## Division (R206, R220 to R223) -/

theorem toNat_aluDivu {a b : Word} (hb : b ≠ 0) : (aluDivu a b).toNat = a.toNat / b.toNat := by
  rw [aluDivu, if_neg hb, BitVec.toNat_ofNat, Nat.mod_eq_of_lt (Nat.lt_of_le_of_lt (Nat.div_le_self _ _) a.isLt)]

theorem toNat_aluRemu {a b : Word} (hb : b ≠ 0) : (aluRemu a b).toNat = a.toNat % b.toNat := by
  rw [aluRemu, if_neg hb, BitVec.toNat_ofNat, Nat.mod_eq_of_lt (Nat.lt_of_le_of_lt (Nat.mod_le _ _) a.isLt)]

/-- The one overflow of signed division, as the numbers and as the words (R206). -/
theorem divOverflow_iff (a b : Word) : a.toInt = -2 ^ 31 ∧ b.toInt = -1 ↔ a = intMin ∧ b = allOnes := by
  have hmin : intMin.toInt = -2 ^ 31 := by decide
  have hneg : allOnes.toInt = -1 := by decide
  rw [← hmin, ← hneg, BitVec.toInt_inj, BitVec.toInt_inj]

/-- R222: where it neither divides by zero nor overflows, DIV is the truncating quotient. -/
theorem toInt_aluDiv {a b : Word} (hb : b ≠ 0) (hov : ¬ (a = intMin ∧ b = allOnes)) :
    (aluDiv a b).toInt = a.toInt.tdiv b.toInt := by
  have hsdiv : (a.sdiv b).toInt = a.toInt.tdiv b.toInt := BitVec.toInt_sdiv_of_ne_or_ne a b (not_and_or.mp hov)
  rw [aluDiv, if_neg hb, if_neg hov, ← hsdiv, BitVec.ofInt_toInt]

/-- R223: and REM is the remainder of that quotient. -/
theorem toInt_aluRem {a b : Word} (hb : b ≠ 0) (hov : ¬ (a = intMin ∧ b = allOnes)) :
    (aluRem a b).toInt = a.toInt.tmod b.toInt := by
  rw [aluRem, if_neg hb, if_neg hov, Int.mul_comm, ← Int.tmod_def, ← BitVec.toInt_srem, BitVec.ofInt_toInt]

theorem toInt_ne_zero {b : Word} (hb : b ≠ 0) : b.toInt ≠ 0 := fun h => hb (BitVec.toInt_inj.mp h)

theorem natAbs_tmod_lt (x : Int) {y : Int} (hy : y ≠ 0) : (x.tmod y).natAbs < y.natAbs := by
  rw [Int.natAbs_tmod]
  exact Nat.mod_lt _ (Int.natAbs_pos.mpr hy)

/-- A truncating remainder is zero or has the sign of the dividend (R206). -/
theorem tmod_eq_zero_or_neg_iff (x y : Int) : x.tmod y = 0 ∨ (x.tmod y < 0 ↔ x < 0) := by
  by_cases hdvd : y ∣ x
  · exact .inl (Int.tmod_eq_zero_of_dvd hdvd)
  · have hsign : (x.tmod y).sign = x.sign := by rw [Int.sign_tmod, if_neg hdvd]
    rw [← Int.sign_eq_neg_one_iff_neg, hsign, Int.sign_eq_neg_one_iff_neg]
    exact .inr Iff.rfl

/-! ## Shifts (R205, R224 to R227) -/

/-- The reference mask keeps bits 4:0 (the spec's decision D10). -/
theorem shiftBy_reference {c : Config} (h : c.shiftMask = Config.reference.shiftMask) (b : Word) :
    shiftBy c b = b.toNat % 32 := by
  rw [shiftBy, h, BitVec.toNat_and]
  exact Nat.and_two_pow_sub_one_eq_mod b.toNat 5

/-- A left shift by more than the width is one by the width: no bit is left. -/
theorem shiftLeft_min_width {w : Nat} (a : BitVec w) (n : Nat) : a <<< min n w = a <<< n := by
  rcases Nat.le_total n w with h | h
  · rw [Nat.min_eq_left h]
  · rw [Nat.min_eq_right h, BitVec.shiftLeft_eq_zero (Nat.le_refl w), BitVec.shiftLeft_eq_zero h]

theorem ushiftRight_min_width {w : Nat} (a : BitVec w) (n : Nat) : a >>> min n w = a >>> n := by
  rcases Nat.le_total n w with h | h
  · rw [Nat.min_eq_left h]
  · rw [Nat.min_eq_right h, BitVec.ushiftRight_eq_zero (Nat.le_refl w), BitVec.ushiftRight_eq_zero h]

/-- An arithmetic right shift by the width or more leaves copies of the sign bit only. -/
theorem sshiftRight_min_width {w : Nat} (a : BitVec w) (n : Nat) : a.sshiftRight (min n w) = a.sshiftRight n := by
  rcases Nat.le_total n w with h | h
  · rw [Nat.min_eq_left h]
  · ext i hi
    rw [Nat.min_eq_right h, BitVec.getElem_sshiftRight, BitVec.getElem_sshiftRight, dif_neg (by omega), dif_neg (by omega)]

theorem toNat_aluShl (c : Config) (a b : Word) :
    (aluShl c.shiftMask a b).toNat = a.toNat * 2 ^ shiftBy c b % 2 ^ 32 := by
  rw [aluShl, shiftDistance, shiftLeft_min_width, BitVec.toNat_shiftLeft, Nat.shiftLeft_eq]
  rfl

theorem toNat_aluShr (c : Config) (a b : Word) : (aluShr c.shiftMask a b).toNat = a.toNat / 2 ^ shiftBy c b := by
  rw [aluShr, shiftDistance, ushiftRight_min_width, BitVec.toNat_ushiftRight, Nat.shiftRight_eq_div_pow]
  rfl

theorem toInt_aluSar (c : Config) (a b : Word) : (aluSar c.shiftMask a b).toInt = a.toInt / 2 ^ shiftBy c b := by
  rw [aluSar, shiftDistance, sshiftRight_min_width, BitVec.toInt_sshiftRight, Int.shiftRight_eq_div_pow,
    Nat.cast_pow]
  rfl

/-! ## Rotations (R205, R228, R229) -/

/-- ROL is the rotation of a bit vector by the amount, which it too counts modulo the width. -/
theorem aluRol_eq_rotateLeft (c : Config) (a b : Word) : aluRol c.shiftMask a b = a.rotateLeft (shiftBy c b) := by
  rw [aluRol, BitVec.rotateLeft_def, show rotateDistance c.shiftMask b = shiftBy c b % 32 from rfl]
  split
  · next h0 => rw [h0, Nat.sub_zero, BitVec.shiftLeft_zero, BitVec.ushiftRight_eq_zero (Nat.le_refl 32), BitVec.or_zero]
  · rfl

theorem aluRor_eq_rotateRight (c : Config) (a b : Word) : aluRor c.shiftMask a b = a.rotateRight (shiftBy c b) := by
  rw [aluRor, BitVec.rotateRight_def, show rotateDistance c.shiftMask b = shiftBy c b % 32 from rfl]
  split
  · next h0 => rw [h0, Nat.sub_zero, BitVec.ushiftRight_zero, BitVec.shiftLeft_eq_zero (Nat.le_refl 32), BitVec.or_zero]
  · rfl

/-- Bit k of a word goes to bit (k + n) mod 32 when it is rotated left by n: the bits that leave at the top come in below. -/
theorem getLsbD_rotateLeft_add (a : Word) (n k : Nat) (hk : k < 32) :
    (a.rotateLeft n).getLsbD ((k + n) % 32) = a.getLsbD k := by
  rw [BitVec.getLsbD_rotateLeft]
  by_cases hwrap : k + n % 32 < 32
  · have hpos : (k + n) % 32 = k + n % 32 := by omega
    simp [hpos, hwrap]
  · have hpos : (k + n) % 32 = k + n % 32 - 32 := by omega
    have hlow : k + n % 32 - 32 < n % 32 := by omega
    have hsource : 32 - n % 32 + (k + n % 32 - 32) = k := by omega
    simp [hpos, hlow, hsource]

theorem getLsbD_rotateRight_eq (a : Word) (n k : Nat) (hk : k < 32) :
    (a.rotateRight n).getLsbD k = a.getLsbD ((k + n) % 32) := by
  rw [BitVec.getLsbD_rotateRight]
  by_cases hwrap : k < 32 - n % 32
  · have hpos : (k + n) % 32 = n % 32 + k := by omega
    simp [hpos, hwrap]
  · have hpos : (k + n) % 32 = k - (32 - n % 32) := by omega
    simp [hpos, hwrap, hk]

/-! ## Comparisons (R232 to R241) -/

theorem flagWord_eq_ite {p q : Prop} [Decidable p] [Decidable q] (h : p ↔ q) :
    flagWord (decide p) = if q then 1 else 0 := by
  simp only [flagWord, decide_eq_true_eq, h]

theorem flagWord_eq_ite_not {p q : Prop} [Decidable p] [Decidable q] (h : p ↔ ¬ q) :
    flagWord (decide p) = if q then 0 else 1 := by
  rw [flagWord_eq_ite h, ite_not]

end Sys2Proof.Machine
end

section
/-! PROOFS. The Arith and ArithSkip instructions (41_arith.md R200 to R241): each runs the function of its operation, completes
with that value in all four forms, or is refused; and the words that no function code of the unit names. -/

namespace Sys2Proof.Machine

/-! ## The function of each operation (R204) -/

/-- The function that the unit runs for an operation, in a core constructed with c; the two unassigned operations have none
(R230, R231). `exec_arithInstr_of_some` and `exec_arithInstr_of_none` tie it to `exec`. -/
def aluFunction : AluOp → Option (Config → Word → Word → Word)
  | .add => some fun _ => aluAdd
  | .sub => some fun _ => aluSub
  | .and => some fun _ => aluAnd
  | .or => some fun _ => aluOr
  | .xor => some fun _ => aluXor
  | .not => some fun _ => aluNot
  | .mulu => some fun _ => aluMulu
  | .mulhu => some fun _ => aluMulhu
  | .mul => some fun _ => aluMul
  | .mulh => some fun _ => aluMulh
  | .divu => some fun _ => aluDivu
  | .remu => some fun _ => aluRemu
  | .div => some fun _ => aluDiv
  | .rem => some fun _ => aluRem
  | .shl => some fun c => aluShl c.shiftMask
  | .shr => some fun c => aluShr c.shiftMask
  | .sal => some fun c => aluSal c.shiftMask
  | .sar => some fun c => aluSar c.shiftMask
  | .rol => some fun c => aluRol c.shiftMask
  | .ror => some fun c => aluRor c.shiftMask
  | .f20 => none
  | .f21 => none
  | .seq => some fun _ => aluSeq
  | .sne => some fun _ => aluSne
  | .sgtu => some fun _ => aluSgtu
  | .sgt => some fun _ => aluSgt
  | .sgeu => some fun _ => aluSgeu
  | .sge => some fun _ => aluSge
  | .sltu => some fun _ => aluSltu
  | .slt => some fun _ => aluSlt
  | .sleu => some fun _ => aluSleu
  | .sle => some fun _ => aluSle

section Dispatch
variable {op : AluOp} {f : Config → Word → Word → Word} (rd rs1 : Reg) (src : Src2) (s : State)

theorem exec_arithInstr_of_some (h : aluFunction op = some f) :
    exec (arithInstr op rd rs1 src) s = arithUnit (f s.cfg) rd rs1 src s := by
  cases op <;> cases h <;> cases src <;> rfl

theorem exec_arithSkipInstr_of_some (h : aluFunction op = some f) :
    exec (arithSkipInstr op rd rs1 src) s = arithSkipUnit (f s.cfg) rd rs1 src s := by
  cases op <;> cases h <;> cases src <;> rfl

theorem exec_arithInstr_of_none (h : aluFunction op = none) :
    exec (arithInstr op rd rs1 src) s = .refused (.arithFunctUnassigned op.funct.toNat) := by
  cases op <;> cases h <;> cases src <;> rfl

theorem exec_arithSkipInstr_of_none (h : aluFunction op = none) :
    exec (arithSkipInstr op rd rs1 src) s = .refused (.arithFunctUnassigned op.funct.toNat) := by
  cases op <;> cases h <;> cases src <;> rfl

end Dispatch

/-! ## The four forms of one operation (R200, R201) -/

/-- An instruction whose outcome is a value completes with it and goes one slot on (R156, R159, R160). -/
theorem completesWith_of_value {i : Instr} {rd : Reg} {v : Word} {P : Word → Prop} {s : State}
    (hexec : exec i s = writeback (.value v) rd s) (hv : P v) : CompletesWith i rd P (nextSlot s) s := by
  rw [writeback_value, pcStepOf_eq_slotSize] at hexec
  exact ⟨v, _, hexec, hv, s.writesBack_setReg rd v _, rfl, rfl⟩

/-- A skip outcome writes its value too, and goes two slots on when it is not zero (R159, D14). -/
theorem completesWith_of_skip {i : Instr} {rd : Reg} {v : Word} {P : Word → Prop} {s : State}
    (hexec : exec i s = writeback (.skip v) rd s) (hv : P v) : CompletesWith i rd P (skipSlot s) s := by
  rw [writeback_skip, pcStepOf_eq_slotSize] at hexec
  exact ⟨v, _, hexec, hv, s.writesBack_setReg rd v _, rfl, rfl⟩

/-- What holds of the function of an operation, for all operands, holds of the value of its four forms. -/
theorem fourForms_of_aluFunction (op : AluOp) {f : Config → Word → Word → Word} {P : Config → Word → Word → Word → Prop}
    (hf : aluFunction op = some f) (hP : ∀ c a b, P c a b (f c a b)) :
    FourForms (fun rd rs1 rs2 => arithInstr op rd rs1 (.reg rs2)) (fun rd rs1 imm => arithInstr op rd rs1 (.imm imm))
      (fun rd rs1 rs2 => arithSkipInstr op rd rs1 (.reg rs2)) (fun rd rs1 imm => arithSkipInstr op rd rs1 (.imm imm)) P :=
  fun rd rs1 rs2 imm s =>
    ⟨completesWith_of_value (exec_arithInstr_of_some rd rs1 (.reg rs2) s hf) (hP _ _ _),
      completesWith_of_value (exec_arithInstr_of_some rd rs1 (.imm imm) s hf) (hP _ _ _),
      completesWith_of_skip (exec_arithSkipInstr_of_some rd rs1 (.reg rs2) s hf) (hP _ _ _),
      completesWith_of_skip (exec_arithSkipInstr_of_some rd rs1 (.imm imm) s hf) (hP _ _ _)⟩

/-! ## The words with no function (R202) -/

section Functs
variable {c : Config} {w : Word}

/-- R108, R112: a function code that is the low field alone names a function. -/
theorem functOf_lt_of_low (h : functOf c w = (extract w 9 5).setWidth 13) : (functOf c w).toNat < 32 := by
  rw [h, BitVec.toNat_setWidth_of_le (by decide)]
  exact (extract w 9 5).isLt

theorem functOf_arithSkip_lt (h : opcodeOf c w = .arithSkip) : (functOf c w).toNat < 32 :=
  functOf_lt_of_low (functOf_low (by rw [h]; decide))

/-- R108: only register-register Arith has a function code of more than the low field. -/
theorem bit0_eq_false_of_arith_of_le (h : opcodeOf c w = .arith) (hf : 32 ≤ (functOf c w).toNat) :
    w.getLsbD 0 = false := by
  cases h0 : w.getLsbD 0 with
  | false => rfl
  | true => exact absurd (functOf_lt_of_low (functOf_arith_imm h h0)) (Nat.not_lt.mpr hf)

/-- R202: the unit rejects a funct of 32 or more. -/
theorem decodeWith_arith_of_le (h : opcodeOf c w = .arith) (hf : 32 ≤ (functOf c w).toNat) :
    decodeWith c w = .error (.arithmeticFunct (functOf c w)) := by
  have ho : (decodeFields c w).opcode = .arith := h
  have hfunct : (decodeFields c w).funct = functOf c w := rfl
  have hnone : AluOp.ofFunct c (functOf c w) = none := (aluOp_ofFunct_none_iff c _).mpr hf
  simp only [decodeWith, Fields.toInstr, ho, hfunct, hnone]

end Functs

/-- No instruction raises ArithmeticFunct once it is decoded (R128, R409). -/
theorem exec_ne_arithmeticFunct (i : Instr) (s : State) : exec i s ≠ .fault .arithmeticFunct := by
  intro h
  rcases exec_fault_cases i s _ h with hno | ⟨-, -, -, -, hf⟩ | ⟨-, hf⟩
  · simp [Fault.NoFunct] at hno
  · cases hf
  · cases hf

/-- R202: the step raises ArithmeticFunct exactly where the decoder has rejected the function code of an Arith word. -/
theorem step_arithmeticFunct_iff {s : State} {w : Word} (hfetch : s.fetch = .ok w) :
    step s = .fault .arithmeticFunct ↔ opcodeOf s.cfg w = .arith ∧ 32 ≤ (functOf s.cfg w).toNat := by
  rw [step_of_fetch s w hfetch]
  constructor
  · intro h
    cases hdecode : decodeWith s.cfg w with
    | ok i =>
      rw [hdecode] at h
      exact absurd h (exec_ne_arithmeticFunct i s)
    | error r =>
      rw [hdecode] at h
      have hr : rejectFault r = .arithmeticFunct := Host.Outcome.fault.inj h
      rcases decodeWith_error_cases s.cfg w r hdecode with ⟨-, -, hf⟩ | ⟨-, -, hf⟩ | ⟨ho | ho, hle, -⟩
      · cases hr.symm.trans hf
      · cases hr.symm.trans hf
      · exact ⟨ho, hle⟩
      · exact absurd (functOf_arithSkip_lt ho) (Nat.not_lt.mpr hle)
  · rintro ⟨ho, hle⟩
    rw [decodeWith_arith_of_le ho hle]
    rfl

/-! ## The obligations -/

/-- Settles O21: a rejected Arith word is the one source of the fault, and only its register form has a wide function code. -/
theorem arithmeticFunctWords : Obligations.ArithmeticFunctWords := by
  refine fun s w hfetch => ⟨step_arithmeticFunct_iff hfetch, fun ho hle => ?_, functOf_arithSkip_lt⟩
  have ho : opcodeOf s.cfg w = .arith := ho
  have himm : (decodeFields s.cfg w).isImm = w.getLsbD 0 := isImmOf_of_ne (by rw [ho]; decide)
  rw [himm, bit0_eq_false_of_arith_of_le ho hle]

/-- Settles O23: both are the wrapping operations on words. -/
theorem addSubEffect : Obligations.AddSubEffect := by
  refine ⟨fourForms_of_aluFunction .add rfl fun _ a b => BitVec.toNat_add a b,
    fourForms_of_aluFunction .sub rfl fun _ a b => ?_⟩
  rw [aluSub, ← BitVec.toNat_add, BitVec.sub_add_cancel]

/-- Settles O24: the operations on words are those on each bit. -/
theorem logicEffect : Obligations.LogicEffect := by
  refine ⟨fourForms_of_aluFunction .and rfl fun _ _ _ _ _ => BitVec.getLsbD_and,
    fourForms_of_aluFunction .or rfl fun _ _ _ _ _ => BitVec.getLsbD_or,
    fourForms_of_aluFunction .xor rfl fun _ _ _ _ _ => BitVec.getLsbD_xor,
    fourForms_of_aluFunction .not rfl fun _ _ _ k hk => ?_⟩
  rw [aluNot, BitVec.getLsbD_not, decide_eq_true hk, Bool.true_and]

/-- Settles O25: the low words by the wrapping of a word, the high words because they fit one. -/
theorem productEffect : Obligations.ProductEffect :=
  ⟨fourForms_of_aluFunction .mulu rfl fun _ _ _ => BitVec.toNat_ofNat _ _,
    fourForms_of_aluFunction .mulhu rfl fun _ => toNat_aluMulhu,
    fourForms_of_aluFunction .mul rfl fun _ => toNat_aluMul,
    fourForms_of_aluFunction .mulh rfl fun _ => toInt_aluMulh⟩

/-- Settles O26: by whether the divisor is 0. -/
theorem unsignedDivisionEffect : Obligations.UnsignedDivisionEffect := by
  refine ⟨fourForms_of_aluFunction .divu rfl fun _ a b => ?_, fourForms_of_aluFunction .remu rfl fun _ a b => ?_⟩
  · split
    · next hb => exact if_pos hb
    · next hb => exact toNat_aluDivu hb
  · split
    · next hb => exact if_pos hb
    · next hb => exact toNat_aluRemu hb

/-- Settles O27: by zero, the overflow, and otherwise the quotient and remainder of the division toward zero. -/
theorem signedDivisionEffect : Obligations.SignedDivisionEffect := by
  refine ⟨fourForms_of_aluFunction .div rfl fun _ a b => ?_, fourForms_of_aluFunction .rem rfl fun _ a b => ?_⟩
  · rw [if_congr (divOverflow_iff a b) rfl rfl]
    split
    · next hb => rw [aluDiv, if_pos hb]; decide
    split
    · next hb hov => rw [aluDiv, if_neg hb, if_pos hov]; decide
    · next hb hov =>
      rw [toInt_aluDiv hb hov]
      exact ⟨a.toInt.tmod b.toInt, (Int.tdiv_mul_add_tmod _ _).symm, natAbs_tmod_lt _ (toInt_ne_zero hb),
        tmod_eq_zero_or_neg_iff _ _⟩
  · rw [if_congr (divOverflow_iff a b) rfl rfl]
    split
    · next hb => rw [aluRem, if_pos hb]
    split
    · next hb hov => rw [aluRem, if_neg hb, if_pos hov]
    · next hb hov =>
      have hzero : aluRem a b = 0 ↔ (aluRem a b).toInt = 0 := BitVec.toInt_inj.symm
      rw [hzero, toInt_aluRem hb hov]
      exact ⟨a.toInt.tdiv b.toInt, (Int.tdiv_mul_add_tmod _ _).symm, natAbs_tmod_lt _ (toInt_ne_zero hb),
        tmod_eq_zero_or_neg_iff _ _⟩

/-- Settles O28: a shift is a product with or a quotient by a power of two, for every amount, and SAL is SHL (R226). -/
theorem shiftEffect : Obligations.ShiftEffect :=
  ⟨fourForms_of_aluFunction .shl rfl toNat_aluShl, fourForms_of_aluFunction .shr rfl toNat_aluShr,
    fourForms_of_aluFunction .sal rfl toNat_aluShl, fourForms_of_aluFunction .sar rfl toInt_aluSar,
    fun _ b h => shiftBy_reference h b⟩

/-- Settles O29: each bit by whether it goes around the end of the word. -/
theorem rotateEffect : Obligations.RotateEffect := by
  refine ⟨fourForms_of_aluFunction .rol rfl fun c a b k hk => ?_, fourForms_of_aluFunction .ror rfl fun c a b k hk => ?_⟩
  · rw [aluRol_eq_rotateLeft, getLsbD_rotateLeft_add a _ k hk]
  · rw [aluRor_eq_rotateRight, getLsbD_rotateRight_eq a _ k hk]

/-- Settles O30: each flag is its relation of the unsigned values, or the negation of the opposite one. -/
theorem equalityAndUnsignedCompareEffect : Obligations.EqualityAndUnsignedCompareEffect :=
  ⟨fourForms_of_aluFunction .seq rfl fun _ _ _ => flagWord_eq_ite BitVec.toNat_inj.symm,
    fourForms_of_aluFunction .sne rfl fun _ _ _ => flagWord_eq_ite_not (not_congr BitVec.toNat_inj.symm),
    fourForms_of_aluFunction .sgtu rfl fun _ _ _ => flagWord_eq_ite Iff.rfl,
    fourForms_of_aluFunction .sgeu rfl fun _ _ _ => flagWord_eq_ite_not Nat.not_lt.symm,
    fourForms_of_aluFunction .sltu rfl fun _ _ _ => flagWord_eq_ite Iff.rfl,
    fourForms_of_aluFunction .sleu rfl fun _ _ _ => flagWord_eq_ite_not Nat.not_lt.symm⟩

/-- Settles O31: as O30, of the signed values. -/
theorem signedCompareEffect : Obligations.SignedCompareEffect :=
  ⟨fourForms_of_aluFunction .sgt rfl fun _ _ _ => flagWord_eq_ite Iff.rfl,
    fourForms_of_aluFunction .sge rfl fun _ _ _ => flagWord_eq_ite_not Int.not_lt.symm,
    fourForms_of_aluFunction .slt rfl fun _ _ _ => flagWord_eq_ite Iff.rfl,
    fourForms_of_aluFunction .sle rfl fun _ _ _ => flagWord_eq_ite_not Int.not_lt.symm⟩

/-- Settles O12: the decoder evaluated on each of the eighteen words. -/
theorem sampleWordsDecode : Obligations.SampleWordsDecode := by
  refine ⟨?_, ?_, ?_, ?_, ?_, ?_, ?_, ?_, ?_, ?_, ?_, ?_, ?_, ?_, ?_, ?_, ?_, ?_⟩ <;> decide

/-- Settles O32: the unassigned operations have no function, so each form is refused under its reference funct. -/
theorem unassignedFunctsRefused : Obligations.UnassignedFunctsRefused := fun rd rs1 rs2 imm s =>
  ⟨exec_arithInstr_of_none (op := .f20) rd rs1 (.reg rs2) s rfl, exec_arithInstr_of_none (op := .f20) rd rs1 (.imm imm) s rfl,
    exec_arithSkipInstr_of_none (op := .f20) rd rs1 (.reg rs2) s rfl,
    exec_arithSkipInstr_of_none (op := .f20) rd rs1 (.imm imm) s rfl,
    exec_arithInstr_of_none (op := .f21) rd rs1 (.reg rs2) s rfl, exec_arithInstr_of_none (op := .f21) rd rs1 (.imm imm) s rfl,
    exec_arithSkipInstr_of_none (op := .f21) rd rs1 (.reg rs2) s rfl,
    exec_arithSkipInstr_of_none (op := .f21) rd rs1 (.imm imm) s rfl, rfl, rfl⟩

end Sys2Proof.Machine
end

section
/-! PROOFS. The ImmUpper instructions (42_immupper.md R250 to R257): the value each puts in rd, the words whose function code the
unit does not have, and a constant built in two instructions. -/

namespace Sys2Proof.Machine

/-! ## UMERGE as numbers and as a way to a constant (R257) -/

theorem toNat_immuMerge (a b : Word) : (immuMerge a b).toNat = b.toNat / 2 ^ 13 * 2 ^ 13 + a.toNat % 2 ^ 13 := by
  have hlow : (a &&& 0x00001FFF).toNat = a.toNat % 2 ^ 13 := Nat.and_two_pow_sub_one_eq_mod a.toNat 13
  have hhigh : (b &&& 0xFFFFE000).toNat = b.toNat / 2 ^ 13 * 2 ^ 13 := toNat_and_allOnes_shiftLeft b 13
  rw [immuMerge, BitVec.toNat_or, hlow, hhigh, Nat.or_comm, ← Nat.shiftLeft_eq,
    ← Nat.shiftLeft_add_eq_or_of_lt (Nat.mod_lt _ (by decide)), Nat.shiftLeft_eq]

/-- Sign extension keeps the field as the low bits. -/
theorem toNat_sext_mod {n : Nat} (hn : n ≤ 32) (v : BitVec n) : (sext v).toNat % 2 ^ n = v.toNat := by
  have hlow : (sext v).setWidth n = v := by
    apply BitVec.eq_of_getLsbD_eq
    intro k hk
    rw [BitVec.getLsbD_setWidth, sext, BitVec.getLsbD_signExtend, if_pos hk, decide_eq_true hk,
      decide_eq_true (Nat.lt_of_lt_of_le hk hn), Bool.true_and, Bool.true_and]
  rw [← BitVec.toNat_setWidth, hlow]

/-- The low 13 bits of a constant and its upper 19 put it together again. The sign extension of the low ones does not matter:
the merge keeps none of the bits it makes. -/
theorem immuMerge_sext_immU (c : Word) : immuMerge (sext (extract c 0 13)) (immU c) = c := by
  apply BitVec.eq_of_toNat_eq
  rw [toNat_immuMerge, toNat_sext_mod (by decide), toNat_extract, toNat_immU]
  unfold fieldNat
  omega

theorem fitsUpper_immU (c : Word) : fitsUpper (immU c) = true := by
  rw [fitsUpper, toNat_immU, decide_eq_true_eq]
  exact Nat.mul_mod_left _ _

/-! ## Two writebacks in a row (40_cycle.md R159, R160) -/

/-- Of two writes to one register in a row, the second one's value and pc remain. -/
theorem WritesBack.trans {rd : Reg} {v v' p p' : Word} {s t u : State} (h : WritesBack rd v p s t)
    (h' : WritesBack rd v' p' t u) : WritesBack rd v' p' s u where
  dest := h'.dest
  pcNext := h'.pcNext
  others r hrd hpc := (h'.others r hrd hpc).trans (h.others r hrd hpc)
  topLocals := h'.topLocals.trans h.topLocals
  below := h'.below.trans h.below
  zeroSlot hrd := (h'.zeroSlot hrd).trans (h.zeroSlot hrd)
  cfg := h'.cfg.trans h.cfg

/-! ## The words with no function (R251) -/

section Functs
variable {c : Config} {w : Word} {f : BitVec 4} {rd : Reg} {imm : Word}

theorem immUpperInstr_ne_badFunct_of_lt {g : BitVec 4} {rd' : Reg} {imm' : Word} (h : g.toNat < 8) :
    immUpperInstr c g rd' imm' ≠ .immUpperBadFunct f rd imm := by
  intro hi
  rw [immUpperInstr, dif_pos h] at hi
  cases hop : c.immuFunctMap[g.toNat] <;> rw [hop] at hi <;> cases hi

/-- R251: a word decodes to the bad instruction only under the opcode ImmUpper; the instructions of the other units are others. -/
theorem opcodeOf_of_decodeWith_badFunct (h : decodeWith c w = .ok (.immUpperBadFunct f rd imm)) :
    opcodeOf c w = .immUpper := by
  have hunit := decodeWith_ok_cases c w _ h
  generalize (decodeFields c w).src2 = src at hunit
  rcases hunit with ⟨-, hi⟩ | ⟨-, op, -, hi⟩ | ⟨-, hi⟩ | ⟨-, op, -, hi⟩ | ⟨-, op, -, hi⟩ | ⟨-, hi⟩ | ⟨-, op, -, hi⟩ | ⟨ho, -⟩
  · cases hi
  · cases op <;> cases src <;> cases hi
  · generalize (functOf c w).getLsbD 0 = bit at hi
    cases bit <;> cases src <;> cases hi
  · cases op <;> cases src <;> cases hi
  · cases op <;> cases src <;> cases hi
  · unfold ioInstr at hi
    split at hi
    · cases src <;> cases hi
    · cases hi
  · cases op <;> cases src <;> cases hi
  · exact ho

theorem toNat_functOf_immUpper (h : opcodeOf c w = .immUpper) : (functOf c w).toNat = fieldNat w 9 4 := by
  rw [functOf_immUpper h, BitVec.toNat_setWidth_of_le (by decide), toNat_extract]

theorem le_functOf_of_decodeWith_badFunct (h : decodeWith c w = .ok (.immUpperBadFunct f rd imm)) :
    8 ≤ (functOf c w).toNat := by
  have ho := opcodeOf_of_decodeWith_badFunct h
  rw [toNat_functOf_immUpper ho, ← toNat_extract]
  by_contra hlt
  rw [decodeWith_immUpper ho] at h
  exact immUpperInstr_ne_badFunct_of_lt (Nat.not_le.mp hlt) (Except.ok.inj h)

theorem decodeWith_immUpper_of_le (h : opcodeOf c w = .immUpper) (hf : 8 ≤ (functOf c w).toNat) :
    decodeWith c w = .ok (.immUpperBadFunct (extract w 9 4) (decodeFields c w).rd (immU w)) := by
  rw [toNat_functOf_immUpper h, ← toNat_extract] at hf
  rw [decodeWith_immUpper h, immUpperInstr_of_ge _ _ _ hf]

/-- The top bit of the funct is bit 12 of the word. -/
theorem le_functOf_immUpper_iff (h : opcodeOf c w = .immUpper) : 8 ≤ (functOf c w).toNat ↔ fieldNat w 12 1 = 1 := by
  rw [toNat_functOf_immUpper h]
  unfold fieldNat
  omega

end Functs

theorem exec_immUpperBadFunct (f : BitVec 4) (rd : Reg) (imm : Word) (s : State) :
    exec (.immUpperBadFunct f rd imm) s = .fault .immUpperFunct := rfl

/-- Only the bad instruction raises ImmUpperFunct (R251). -/
theorem eq_badFunct_of_exec_fault {i : Instr} {s : State} (h : exec i s = .fault .immUpperFunct) :
    ∃ f rd imm, i = .immUpperBadFunct f rd imm := by
  rcases exec_fault_cases i s _ h with hno | ⟨f, rd, imm, hi, -⟩ | ⟨-, hf⟩
  · simp [Fault.NoFunct] at hno
  · exact ⟨f, rd, imm, hi⟩
  · cases hf

/-- R251: the step raises ImmUpperFunct exactly where the fetched word decodes to the bad instruction. -/
theorem step_immUpperFunct_iff {s : State} {w : Word} (hfetch : s.fetch = .ok w) :
    step s = .fault .immUpperFunct ↔ opcodeOf s.cfg w = .immUpper ∧ 8 ≤ (functOf s.cfg w).toNat := by
  constructor
  · intro h
    rw [step_of_fetch s w hfetch] at h
    cases hdecode : decodeWith s.cfg w with
    | ok i =>
      rw [hdecode] at h
      obtain ⟨f, rd, imm, rfl⟩ := eq_badFunct_of_exec_fault h
      exact ⟨opcodeOf_of_decodeWith_badFunct hdecode, le_functOf_of_decodeWith_badFunct hdecode⟩
    | error r =>
      rw [hdecode] at h
      have hr : rejectFault r = .immUpperFunct := Host.Outcome.fault.inj h
      cases r <;> cases hr
  · rintro ⟨ho, hle⟩
    rw [step_of_decode hfetch (decodeWith_immUpper_of_le ho hle), exec_immUpperBadFunct]

/-! ## The obligations -/

/-- Settles O33: the wrapping sum and difference, the operations on each bit, and the merge of the two parts. -/
theorem immUpperEffect : Obligations.ImmUpperEffect := fun rd imm s =>
  ⟨completesWith_of_value (v := immuAdd (s.reg rd) imm) rfl (BitVec.toNat_add _ _),
    completesWith_of_value (v := immuSub (s.reg rd) imm) rfl (by rw [immuSub, ← BitVec.toNat_add, BitVec.sub_add_cancel]),
    completesWith_of_value (v := immuAnd (s.reg rd) imm) rfl fun _ _ => BitVec.getLsbD_and,
    completesWith_of_value (v := immuOr (s.reg rd) imm) rfl fun _ _ => BitVec.getLsbD_or,
    completesWith_of_value (v := immuXor (s.reg rd) imm) rfl fun _ _ => BitVec.getLsbD_xor,
    completesWith_of_value (v := immuMerge (s.reg rd) imm) rfl (toNat_immuMerge _ _)⟩

/-- Settles O34: the fault is the bad instruction's, and that is what the words with bit 12 set decode to. -/
theorem immUpperFunctWords : Obligations.ImmUpperFunctWords :=
  ⟨fun _ _ hfetch => ⟨step_immUpperFunct_iff hfetch, le_functOf_immUpper_iff⟩, exec_immUpperBadFunct⟩

/-- Settles O35: lo is the sign-extended low field of the constant, hi its upper bits in place. -/
theorem twoInstructionConstant : Obligations.TwoInstructionConstant := by
  intro c rd s hzero hpc
  have haddI : CompletesWith (.addI rd 0 (sext (extract c 0 13))) rd (· = sext (extract c 0 13)) (nextSlot s) s :=
    completesWith_of_value (exec_arithInstr_of_some rd 0 (.imm _) s (op := .add) rfl) (BitVec.zero_add _)
  obtain ⟨_, t, hexec, rfl, hback, hmem, -⟩ := haddI
  have humerge : CompletesWith (.umerge rd (immU c)) rd (· = immuMerge (t.reg rd) (immU c)) (nextSlot t) t :=
    completesWith_of_value rfl rfl
  obtain ⟨_, u, hexec', rfl, hback', hmem', -⟩ := humerge
  have hboth := hback.trans hback'
  refine ⟨sext (extract c 0 13), immU c, t, u, fitsSigned13_sext _, fitsUpper_immU c, hexec, hexec', ?_, ?_, hboth.others,
    hmem'.trans hmem⟩
  · rw [hboth.dest, if_neg hzero, hback.dest, if_neg hzero, immuMerge_sext_immU]
  · rw [hboth.pcNext hpc, nextSlot, hback.pcNext hpc, hback.cfg, nextSlot, add_assoc, ← two_mul]

end Sys2Proof.Machine
end

section
/-! PROOFS. The Load and Store instructions (43_loadstore.md R270 to R285): each runs its unit with the width and the extension of
its operation, and ends as the access to memory at x[rs1] + s2 ends; and the words whose function code neither unit has. -/

namespace Sys2Proof.Machine

/-! ## The width and the extension of each operation (R272 to R276, R281 to R283) -/

/-- How many bytes a load reads. `exec_loadInstr_eq` ties it to `exec`. -/
def loadWidth : LoadOp → Width
  | .lw => .word
  | .lhu => .half
  | .lh => .half
  | .lbu => .byte
  | .lb => .byte

/-- How a load extends what it reads to a word. `exec_loadInstr_eq` ties it to `exec`. -/
def loadExtension : LoadOp → Word → Word
  | .lw => extendZero
  | .lhu => extendZero
  | .lh => extendHalf
  | .lbu => extendZero
  | .lb => extendByte

/-- How many bytes a store writes. `exec_storeInstr_eq` ties it to `exec`. -/
def storeWidth : StoreOp → Width
  | .sw => .word
  | .sh => .half
  | .sb => .byte

section Units
variable {w : Width} {ext : Word → Word} (rd rs1 rs3 : Reg) (src : Src2) {s : State}

theorem exec_loadInstr_eq (op : LoadOp) (s : State) :
    exec (loadInstr op rd rs1 src) s = loadUnit (loadWidth op) (loadExtension op) rd rs1 src s := by
  cases op <;> cases src <;> rfl

theorem exec_storeInstr_eq (op : StoreOp) (s : State) :
    exec (storeInstr op rs3 rs1 src) s = storeUnit (storeWidth op) rs3 rs1 src s := by
  cases op <;> cases src <;> rfl

/-! ## A unit ends as its access ends (R271, R280) -/

theorem loadUnit_of_read {v : Word} (h : s.mem.read w (s.effectiveAddress rs1 src) = .ok v) :
    loadUnit w ext rd rs1 src s = writeback (.value (ext v)) rd s := by
  simp only [loadUnit, h]

theorem loadUnit_of_readError {e : MemError} (h : s.mem.readError w (s.effectiveAddress rs1 src).toNat = some e) :
    loadUnit w ext rd rs1 src s = .fault (.memory e) := by
  have hread : s.mem.read w (s.effectiveAddress rs1 src) = .error e := (s.mem.read_eq_error_iff w _ e).mpr h
  simp only [loadUnit, hread, raise]

theorem storeUnit_of_write {m : Memory}
    (h : s.mem.write s.cfg.imageWrites w (s.effectiveAddress rs1 src) (s.reg rs3) = .ok m) :
    storeUnit w rs3 rs1 src s = writeback .nothing 0 { s with mem := m } := by
  simp only [storeUnit, h]

theorem storeUnit_of_writeError {e : MemError}
    (h : s.mem.writeError s.cfg.imageWrites w (s.effectiveAddress rs1 src).toNat = some e) :
    storeUnit w rs3 rs1 src s = .fault (.memory e) := by
  have hwrite : s.mem.write s.cfg.imageWrites w (s.effectiveAddress rs1 src) (s.reg rs3) = .error e :=
    (s.mem.write_eq_error_iff s.cfg.imageWrites w _ _ e).mpr h
  simp only [storeUnit, hwrite, raise]

end Units

/-! ## The sign extensions as numbers (R274, R276) -/

/-- A value of n bits extended from its own sign bit. -/
theorem toInt_sext_extract {n : Nat} (hn : n ≤ 32) {v : Word} (hv : v.toNat < 2 ^ n) :
    (sext (extract v 0 n)).toInt = if 2 * v.toNat < 2 ^ n then (v.toNat : Int) else (v.toNat : Int) - 2 ^ n := by
  have hfield : (extract v 0 n).toNat = v.toNat := by
    rw [toNat_extract, fieldNat, Nat.pow_zero, Nat.div_one, Nat.mod_eq_of_lt hv]
  rw [sext, BitVec.toInt_signExtend_of_le hn, BitVec.toInt_eq_toNat_cond, hfield]
  norm_cast

theorem toInt_extendHalf {v : Word} (hv : v.toNat < 65536) :
    (extendHalf v).toInt = if v.toNat < 32768 then (v.toNat : Int) else (v.toNat : Int) - 65536 := by
  rw [extendHalf, toInt_sext_extract (by decide) hv]
  exact if_congr (by omega) rfl rfl

theorem toInt_extendByte {v : Word} (hv : v.toNat < 256) :
    (extendByte v).toInt = if v.toNat < 128 then (v.toNat : Int) else (v.toNat : Int) - 256 := by
  rw [extendByte, toInt_sext_extract (by decide) hv]
  exact if_congr (by omega) rfl rfl

/-! ## How a load ends (R271) -/

/-- Where the bytes can be read, the load completes with its extension of their value, which is one of its width. -/
theorem completesWith_loadInstr (op : LoadOp) {P : Nat → Word → Prop}
    (hP : ∀ v : Word, v.toNat < 256 ^ (loadWidth op).bytes → P v.toNat (loadExtension op v))
    (rd rs1 : Reg) (src : Src2) {s : State} (h : ReadableAt s.mem (loadWidth op) (s.effectiveAddress rs1 src).toNat) :
    CompletesWith (loadInstr op rd rs1 src) rd
      (P (leSum s.mem (s.effectiveAddress rs1 src).toNat (loadWidth op).bytes)) (nextSlot s) s := by
  have hexec := (exec_loadInstr_eq rd rs1 src op s).trans (loadUnit_of_read rd rs1 src (s.mem.read_of_readable _ _ h))
  refine completesWith_of_value hexec ?_
  rw [← Memory.toNat_valueAt]
  exact hP _ (by rw [Memory.toNat_valueAt]; exact leSum_lt _ _ _)

theorem loadForms_of_extension (op : LoadOp) {P : Nat → Word → Prop}
    (hP : ∀ v : Word, v.toNat < 256 ^ (loadWidth op).bytes → P v.toNat (loadExtension op v)) :
    LoadForms (fun rd rs1 rs2 => loadInstr op rd rs1 (.reg rs2)) (fun rd rs1 imm => loadInstr op rd rs1 (.imm imm))
      (loadWidth op) P :=
  fun rd rs1 rs2 imm _ =>
    ⟨completesWith_loadInstr op hP rd rs1 (.reg rs2), completesWith_loadInstr op hP rd rs1 (.imm imm)⟩

/-- A read that fails ends the load with the error of the read, whatever the destination. -/
theorem readFaults_loadInstr (op : LoadOp) (rd rs1 : Reg) (src : Src2) (s : State) :
    ReadFaults (loadInstr op rd rs1 src) (loadWidth op) (s.effectiveAddress rs1 src).toNat s := by
  rw [ReadFaults, exec_loadInstr_eq]
  exact ⟨fun hal => loadUnit_of_readError rd rs1 src (s.mem.readError_unaligned _ _ hal),
    fun hal hr => loadUnit_of_readError rd rs1 src (s.mem.readError_range _ _ hal hr)⟩

/-! ## How a store ends (R280) -/

theorem State.setPc_setPc_self (s : State) (p : Word) : (s.setPc p).setPc p = s.setPc p := by
  simpa only [State.pc_setPc] using (s.setPc p).setPc_pc

theorem State.onlyPc_setPc (s : State) (p : Word) : OnlyPc p s (s.setPc p) := by
  have h := s.writesBack_setReg 2 p p
  rwa [show (s.setPc p).setReg 2 p = s.setPc p from s.setPc_setPc_self p] at h

/-- `OnlyPc` speaks of registers and parameters, so it does not see that the memory is another one. -/
theorem OnlyPc.of_withMem {p : Word} {m : Memory} {s t : State} (h : OnlyPc p { s with mem := m } t) : OnlyPc p s t where
  dest := h.dest
  pcNext := h.pcNext
  others := h.others
  topLocals := h.topLocals
  below := h.below
  zeroSlot := h.zeroSlot
  cfg := h.cfg

/-- Where the write answers m, the store completes with the memory m and writes nothing else but the pc. -/
theorem exec_storeInstr_of_write (op : StoreOp) (rs3 rs1 : Reg) (src : Src2) {s : State} {m : Memory}
    (h : s.mem.write s.cfg.imageWrites (storeWidth op) (s.effectiveAddress rs1 src) (s.reg rs3) = .ok m) :
    ∃ t, exec (storeInstr op rs3 rs1 src) s = .next t ∧ t.mem = m ∧ OnlyPc (s.pc + slotSize s.cfg) s t ∧ t.io = s.io := by
  have hexec := (exec_storeInstr_eq rs1 rs3 src op s).trans (storeUnit_of_write rs1 rs3 src h)
  rw [writeback_nothing, pcStepOf_eq_slotSize] at hexec
  exact ⟨_, hexec, rfl, OnlyPc.of_withMem (State.onlyPc_setPc { s with mem := m } _), rfl⟩

theorem storeCompletes_storeInstr (op : StoreOp) (rs3 rs1 : Reg) (src : Src2) {s : State}
    (h : WritableAt s.mem (storeWidth op) (s.effectiveAddress rs1 src).toNat) :
    StoreCompletes (storeInstr op rs3 rs1 src) (storeWidth op) (s.effectiveAddress rs1 src).toNat (s.reg rs3) s := by
  obtain ⟨t, hexec, hmem, hpc, hio⟩ :=
    exec_storeInstr_of_write op rs3 rs1 src (s.mem.write_of_writable s.cfg.imageWrites _ _ _ h)
  exact ⟨t, hexec, hmem ▸ s.mem.stored_putValue _ _ _, hpc, hio⟩

theorem storeIgnored_storeInstr (op : StoreOp) (rs3 rs1 : Reg) (src : Src2) {s : State}
    (hal : (s.effectiveAddress rs1 src).toNat % (storeWidth op).bytes = 0)
    (h : ImageIgnores s.cfg.imageWrites s.mem (s.effectiveAddress rs1 src).toNat) :
    StoreIgnored (storeInstr op rs3 rs1 src) s :=
  exec_storeInstr_of_write op rs3 rs1 src (s.mem.write_ignored s.cfg.imageWrites _ _ _ hal h)

theorem storeForms_storeInstr (op : StoreOp) :
    StoreForms (fun rs3 rs1 rs2 => storeInstr op rs3 rs1 (.reg rs2)) (fun rs3 rs1 imm => storeInstr op rs3 rs1 (.imm imm))
      (storeWidth op) :=
  fun rs3 rs1 rs2 imm _ =>
    ⟨storeCompletes_storeInstr op rs3 rs1 (.reg rs2), storeCompletes_storeInstr op rs3 rs1 (.imm imm)⟩

theorem storeFormsIgnored_storeInstr (op : StoreOp) :
    StoreFormsIgnored (fun rs3 rs1 rs2 => storeInstr op rs3 rs1 (.reg rs2))
      (fun rs3 rs1 imm => storeInstr op rs3 rs1 (.imm imm)) (storeWidth op) :=
  fun rs3 rs1 rs2 imm _ =>
    ⟨storeIgnored_storeInstr op rs3 rs1 (.reg rs2), storeIgnored_storeInstr op rs3 rs1 (.imm imm)⟩

/-- A write that fails ends the store with the error of the write, and none is Uninit. -/
theorem writeFaults_storeInstr (op : StoreOp) (rs3 rs1 : Reg) (src : Src2) (s : State) :
    WriteFaults (storeInstr op rs3 rs1 src) (storeWidth op) (s.effectiveAddress rs1 src).toNat s := by
  rw [WriteFaults, exec_storeInstr_eq]
  exact ⟨fun hal => storeUnit_of_writeError rs1 rs3 src (s.mem.writeError_unaligned _ _ _ hal),
    fun hal hr hi => storeUnit_of_writeError rs1 rs3 src (s.mem.writeError_range _ _ _ hal hr hi)⟩

/-! ## The words with no function (R277, R284) -/

section Functs
variable {c : Config} {w : Word}

/-- R112: the function code of a Load or a Store is the low field alone. -/
theorem toNat_functOf_low (h : opcodeOf c w ∈ [Opcode.compressed, .load, .store, .arithSkip]) :
    (functOf c w).toNat = fieldNat w 9 5 := by
  rw [functOf_low h, BitVec.toNat_setWidth_of_le (by decide), toNat_extract]

theorem decodeWith_load_of_le (h : opcodeOf c w = .load) (hf : 5 ≤ (functOf c w).toNat) :
    decodeWith c w = .error (.loadFunct (functOf c w)) := by
  have ho : (decodeFields c w).opcode = .load := h
  have hfunct : (decodeFields c w).funct = functOf c w := rfl
  have hnone : LoadOp.ofFunct (functOf c w) = none := (loadOp_ofFunct_none_iff _).mpr hf
  simp only [decodeWith, Fields.toInstr, ho, hfunct, hnone]

theorem decodeWith_store_of_le (h : opcodeOf c w = .store) (hf : 3 ≤ (functOf c w).toNat) :
    decodeWith c w = .error (.storeFunct (functOf c w)) := by
  have ho : (decodeFields c w).opcode = .store := h
  have hfunct : (decodeFields c w).funct = functOf c w := rfl
  have hnone : StoreOp.ofFunct (functOf c w) = none := (storeOp_ofFunct_none_iff _).mpr hf
  simp only [decodeWith, Fields.toInstr, ho, hfunct, hnone]

/-- R277: which words the decoder rejects for their Load funct. -/
theorem rejected_loadFunct_iff :
    (∃ r, decodeWith c w = .error r ∧ rejectFault r = .loadFunct) ↔ opcodeOf c w = .load ∧ 5 ≤ fieldNat w 9 5 := by
  constructor
  · rintro ⟨r, hdecode, hr⟩
    rcases decodeWith_error_cases c w r hdecode with ⟨ho, hle, -⟩ | ⟨-, -, hf⟩ | ⟨-, -, hf⟩
    · exact ⟨ho, toNat_functOf_low (by rw [ho]; decide) ▸ hle⟩
    · cases hr.symm.trans hf
    · cases hr.symm.trans hf
  · rintro ⟨ho, hle⟩
    exact ⟨_, decodeWith_load_of_le ho (by rwa [toNat_functOf_low (by rw [ho]; decide)]), rfl⟩

/-- R284: which words the decoder rejects for their Store funct. -/
theorem rejected_storeFunct_iff :
    (∃ r, decodeWith c w = .error r ∧ rejectFault r = .storeFunct) ↔ opcodeOf c w = .store ∧ 3 ≤ fieldNat w 9 5 := by
  constructor
  · rintro ⟨r, hdecode, hr⟩
    rcases decodeWith_error_cases c w r hdecode with ⟨-, -, hf⟩ | ⟨ho, hle, -⟩ | ⟨-, -, hf⟩
    · cases hr.symm.trans hf
    · exact ⟨ho, toNat_functOf_low (by rw [ho]; decide) ▸ hle⟩
    · cases hr.symm.trans hf
  · rintro ⟨ho, hle⟩
    exact ⟨_, decodeWith_store_of_le ho (by rwa [toNat_functOf_low (by rw [ho]; decide)]), rfl⟩

end Functs

/-- No instruction raises LoadFunct or StoreFunct once it is decoded (R128, R409). -/
theorem exec_ne_functFault (i : Instr) (s : State) {f : Fault} (hf : f = .loadFunct ∨ f = .storeFunct) :
    exec i s ≠ .fault f := by
  intro h
  rcases exec_fault_cases i s f h with hno | ⟨-, -, -, -, rfl⟩ | ⟨-, rfl⟩
  · rcases hf with rfl | rfl <;> simp [Fault.NoFunct] at hno
  · simp at hf
  · simp at hf

/-- A fault that no decoded instruction raises is one of the decoder's rejection (R128). -/
theorem step_fault_iff_rejected {s : State} {w : Word} {f : Fault} (hfetch : s.fetch = .ok w)
    (hexec : ∀ i, exec i s ≠ .fault f) :
    step s = .fault f ↔ ∃ r, decodeWith s.cfg w = .error r ∧ rejectFault r = f := by
  rw [step_of_fetch s w hfetch]
  cases decodeWith s.cfg w with
  | ok i => simpa using hexec i
  | error r => simp

/-! ## The obligations -/

/-- Settles O22: no decoded instruction raises either fault, so both come from the decoder, before any access. -/
theorem loadStoreFunctWords : Obligations.LoadStoreFunctWords := fun s _ hfetch =>
  ⟨(step_fault_iff_rejected hfetch fun i => exec_ne_functFault i s (.inl rfl)).trans rejected_loadFunct_iff,
    (step_fault_iff_rejected hfetch fun i => exec_ne_functFault i s (.inr rfl)).trans rejected_storeFunct_iff⟩

/-- Settles O36: a word and the zero-extended values are the value read, the others its sign extension. -/
theorem loadsComplete : Obligations.LoadsComplete :=
  ⟨loadForms_of_extension .lw fun _ _ => rfl, loadForms_of_extension .lhu fun _ _ => rfl,
    loadForms_of_extension .lh fun _ => toInt_extendHalf, loadForms_of_extension .lbu fun _ _ => rfl,
    loadForms_of_extension .lb fun _ => toInt_extendByte⟩

/-- Settles O37: each form faults as its read does. -/
theorem loadsFault : Obligations.LoadsFault := fun rd rs1 rs2 imm s =>
  ⟨readFaults_loadInstr .lw rd rs1 (.reg rs2) s, readFaults_loadInstr .lw rd rs1 (.imm imm) s,
    readFaults_loadInstr .lhu rd rs1 (.reg rs2) s, readFaults_loadInstr .lhu rd rs1 (.imm imm) s,
    readFaults_loadInstr .lh rd rs1 (.reg rs2) s, readFaults_loadInstr .lh rd rs1 (.imm imm) s,
    readFaults_loadInstr .lbu rd rs1 (.reg rs2) s, readFaults_loadInstr .lbu rd rs1 (.imm imm) s,
    readFaults_loadInstr .lb rd rs1 (.reg rs2) s, readFaults_loadInstr .lb rd rs1 (.imm imm) s⟩

/-- Settles O38: the store completes with the memory its write answers, which is the stored one or, ignored, the same one. -/
theorem storesComplete : Obligations.StoresComplete :=
  ⟨storeForms_storeInstr .sw, storeForms_storeInstr .sh, storeForms_storeInstr .sb,
    storeFormsIgnored_storeInstr .sw, storeFormsIgnored_storeInstr .sh, storeFormsIgnored_storeInstr .sb⟩

/-- Settles O39: each form faults as its write does. -/
theorem storesFault : Obligations.StoresFault := fun rs3 rs1 rs2 imm s =>
  ⟨writeFaults_storeInstr .sw rs3 rs1 (.reg rs2) s, writeFaults_storeInstr .sw rs3 rs1 (.imm imm) s,
    writeFaults_storeInstr .sh rs3 rs1 (.reg rs2) s, writeFaults_storeInstr .sh rs3 rs1 (.imm imm) s,
    writeFaults_storeInstr .sb rs3 rs1 (.reg rs2) s, writeFaults_storeInstr .sb rs3 rs1 (.imm imm) s⟩

end Sys2Proof.Machine
end

section
/-! PROOFS. The Func instructions (44_func.md R300 to R305): how a call and a return end, and what is left of a call after the
return through its link. -/

namespace Sys2Proof.Machine

/-! ## How a call ends (R301, R407) -/

/-- A call that may push completes: the push, then the pc, then the link in the new window (40_cycle.md R158 to R161). -/
theorem callCompletes_funcInstr (rd rs1 : Reg) (src : Src2) {s : State} (h : MayPush s) :
    CallCompletes (funcInstr false rd rs1 src) rd (s.pc + s.operand2 src) s :=
  ⟨{ s with regs := s.regs.call }, _, s.pushed_call,
    (exec_funcInstr false rd rs1 src s).trans (writeback_call s.pc _ rd s h), State.writesBack_setReg rd s.pc _ _, rfl, rfl⟩

theorem exec_call_overflow (rd rs1 : Reg) (src : Src2) {s : State} {n : Nat} (hn : s.cfg.windowDepthMax = some n)
    (h : n ≤ s.regs.depth) : exec (funcInstr false rd rs1 src) s = .fault .windowOverflow :=
  (exec_funcInstr false rd rs1 src s).trans (writeback_call_overflow s.pc _ rd s n hn h)

/-! ## What a return runs (R302) -/

/-- The continuation is read before the window update. -/
theorem exec_ret (rs1 : Reg) (s : State) : exec (.ret rs1) s = writeback (.ret (s.reg rs1)) 0 s :=
  exec_funcInstr true 0 rs1 (.reg 0) s

/-! ## The four groups of selectors (R24) -/

theorem reg_group_cases (r : Reg) : ∃ k : Fin 8, r = BitVec.ofNat 5 k.val ∨ r = BitVec.ofNat 5 (8 + k.val) ∨
    r = BitVec.ofNat 5 (16 + k.val) ∨ r = BitVec.ofNat 5 (24 + k.val) := by
  revert r; decide

/-- The first eight selectors read the globals and nothing else. -/
theorem State.reg_congr_globals {s t : State} (h : s.regs.globals = t.regs.globals) (k : Fin 8) :
    s.reg (BitVec.ofNat 5 k.val) = t.reg (BitVec.ofNat 5 k.val) := by
  by_cases hk : k = 0
  · subst hk; rfl
  · simp only [State.reg_ofNat_global _ k hk, h]

/-- What a selector other than the pc reads after a cycle that writes back to a register that can hold a value. -/
theorem WritesBack.reg_of_ne_pc {rd r : Reg} {v pc' : Word} {s t : State} (h : WritesBack rd v pc' s t) (hrd : rd ≠ 0)
    (hr : r ≠ 2) : t.reg r = if r = rd then v else s.reg r := by
  split
  case isTrue heq => rw [heq, h.dest, if_neg hrd]
  case isFalse hne => exact h.others r hne hr

/-! ## A call and the return after it (R303) -/

/-- The selectors at which the caller sees the link of a call through L: L itself among the globals, and for L in 24 to 31 the
selector 16 below, since the new window's second shared slots are the caller's top ones. -/
abbrev LinkVisibleAt (L r : Reg) : Prop := (r = L ∧ L.toNat < 8) ∨ (24 ≤ L.toNat ∧ r.toNat + 16 = L.toNat)

theorem linkVisibleAt_global (L : Reg) (k : Fin 8) :
    LinkVisibleAt L (BitVec.ofNat 5 k.val) ↔ BitVec.ofNat 5 k.val = L := by
  have hk := k.isLt
  simp only [LinkVisibleAt, ← BitVec.toNat_inj, BitVec.toNat_ofNat]
  omega

theorem linkVisibleAt_topShared (L : Reg) (k : Fin 8) :
    LinkVisibleAt L (BitVec.ofNat 5 (8 + k.val)) ↔ BitVec.ofNat 5 (24 + k.val) = L := by
  have hk := k.isLt
  simp only [LinkVisibleAt, ← BitVec.toNat_inj, BitVec.toNat_ofNat]
  omega

theorem not_linkVisibleAt_of_le {L r : Reg} (h : 16 ≤ r.toNat) : ¬ LinkVisibleAt L r := by
  have hL := L.isLt
  simp only [LinkVisibleAt, ← BitVec.toNat_inj]
  omega

section Windows
variable {L : Reg} {link target : Word} {s p t q : State}

/-- The second frame and those below it stay out of the reach of a link written in the new window. -/
theorem Popped.frames_of_call (hpush : Pushed s p) (hlink : WritesBack L link target p t) (hpop : Popped t q) :
    q.regs.second = s.regs.second ∧ q.regs.below = s.regs.below :=
  List.cons.inj (hpop.below.trans (hlink.below.trans hpush.below))

/-- What the caller's selectors read once the frame of a call is popped, by their group: the globals and the top shared slots
are where the link may have been written, the second frame is as it was. -/
theorem Popped.reg_of_call (hL : L ≠ 0) (hpush : Pushed s p) (hlink : WritesBack L link target p t) (hpop : Popped t q)
    {r : Reg} (hr : r ≠ 2) : q.reg r = if LinkVisibleAt L r then link else s.reg r := by
  obtain ⟨hsecond, -⟩ := hpop.frames_of_call hpush hlink
  obtain ⟨k, rfl | rfl | rfl | rfl⟩ := reg_group_cases r
  · simp only [State.reg_congr_globals hpop.globals k, hlink.reg_of_ne_pc hL hr, State.reg_congr_globals hpush.globals k,
      linkVisibleAt_global]
  · have hne : BitVec.ofNat 5 (24 + k.val) ≠ 2 := by revert k; decide
    simp only [hpop.shared, hlink.reg_of_ne_pc hL hne, hpush.shared, linkVisibleAt_topShared]
  · rw [if_neg (not_linkVisibleAt_of_le (by simp; omega))]
    simp only [State.reg_ofNat_secondLocal, hsecond]
  · rw [if_neg (not_linkVisibleAt_of_le (by simp; omega))]
    simp only [State.reg_ofNat_secondShared, hsecond]

/-- The caller's hidden local slots are the new window's selectors 16 to 23, so such a link stays in one of them. -/
theorem Popped.topLocals_of_call (hL : L ≠ 0) (hpush : Pushed s p) (hlink : WritesBack L link target p t)
    (hpop : Popped t q) (k : Fin 8) :
    q.regs.top.locals[k.val] = if L.toNat = 16 + k.val then link else s.regs.top.locals[k.val] := by
  have hne : BitVec.ofNat 5 (16 + k.val) ≠ 2 := by revert k; decide
  have hiff : BitVec.ofNat 5 (16 + k.val) = L ↔ L.toNat = 16 + k.val := by
    rw [← BitVec.toNat_inj, BitVec.toNat_ofNat]
    omega
  simp only [hpop.locals, hlink.reg_of_ne_pc hL hne, hpush.locals, hiff]

end Windows

/-! ## The obligations -/

/-- Settles O47: both forms are one call, with their own second operand. -/
theorem callsComplete : Obligations.CallsComplete := fun rd rs2 imm _ h =>
  ⟨callCompletes_funcInstr rd 0 (.reg rs2) h, callCompletes_funcInstr rd 0 (.imm imm) h⟩

/-- Settles O48: above depth 2 there is a third frame, so the pop answers, and the pc alone is written after it. The continuation
is an operand of the outcome, so it is the one read in the old window (D17). -/
theorem retCompletes : Obligations.RetCompletes := by
  intro rs1 s h
  obtain ⟨u, hpop, hpopped⟩ := (returnPopsFrame s).2 h
  obtain ⟨g, hg, rfl⟩ := (State.popWindow_eq_ok_iff s u).mp hpop
  have hexec := (exec_ret rs1 s).trans (writeback_ret (s.reg rs1) 0 s g hg)
  rw [pcStepOf_eq_slotSize] at hexec
  exact ⟨_, _, hpopped, hexec, State.onlyPc_setPc _ _, rfl, rfl⟩

/-- Settles O49: at depth 2 there is no third frame to pop, and at the bound the push answers with the overflow. -/
theorem windowFaults : Obligations.WindowFaults := by
  refine ⟨fun rs1 s h => ?_, fun rd rs2 imm s n hn h =>
    ⟨exec_call_overflow rd 0 (.reg rs2) hn h, exec_call_overflow rd 0 (.imm imm) hn h⟩⟩
  exact (exec_ret rs1 s).trans (writeback_ret_underflow _ 0 s (s.regs.depth_le_two_iff.mp h.le))

/-- Settles O50: the call pushes and writes the link, the return reads the link and pops, and the second frame and those below
it are the caller's again. -/
theorem callThenRetComesBack : Obligations.CallThenRetComesBack := by
  intro L rs2 imm s hL _ hmay i hi
  obtain ⟨target, p, t, hpush, hcall, hlink, htmem, htio⟩ : ∃ target, CallCompletes i L target s := by
    rcases hi with rfl | rfl
    · exact ⟨_, (callsComplete L rs2 imm s hmay).2⟩
    · exact ⟨_, (callsComplete L rs2 imm s hmay).1⟩
  have htcfg : t.cfg = s.cfg := hlink.cfg.trans hpush.cfg
  have htlink : t.reg L = s.pc := hlink.dest.trans (if_neg hL)
  have hdepth : 2 < t.regs.depth := by simp [RegFile.depth, hlink.below, hpush.below]
  obtain ⟨q, u, hpop, hret, hpc, humem, huio⟩ := retCompletes L t hdepth
  have hubelow : u.regs.below = s.regs.below := hpc.below.trans (hpop.frames_of_call hpush hlink).2
  refine ⟨t, u, hcall, hret, ?_, ?_, hubelow, humem.trans htmem, huio.trans htio,
    hpc.cfg.trans (hpop.cfg.trans htcfg), fun r hr => ?_, fun k => ?_⟩
  · calc u.pc = t.reg L + slotSize t.cfg := hpc.dest
      _ = s.pc + slotSize s.cfg := by rw [htlink, htcfg]
  · rw [RegFile.depth, hubelow, RegFile.depth]
  · exact (hpc.others r hr hr).trans (hpop.reg_of_call hL hpush hlink hr)
  · simp only [hpc.topLocals, hpop.topLocals_of_call hL hpush hlink k]

end Sys2Proof.Machine
end

section
/-! PROOFS. The Io instructions (45_io.md R320 to R325): each ends as its device's answer ends, what the reference device and
a supplied one answer, and that a device's functions written as data are all those of the operands and of how each byte read and
each byte write would end. -/

namespace Sys2Proof.Machine

/-! ## An Io instruction ends as its device ends (R321) -/

section Calls
variable {i : Instr} {rd : Reg} {c : IoCall} {s : State}

/-- The registers and parameters are not in the I/O port or the memory, so `WritesBack` does not see that these are other ones. -/
theorem WritesBack.of_withIoMem {v pc' : Word} {io : IoPort} {m : Memory} {t : State}
    (h : WritesBack rd v pc' { s with io := io, mem := m } t) : WritesBack rd v pc' s t where
  dest := h.dest
  pcNext := h.pcNext
  others := h.others
  topLocals := h.topLocals
  below := h.below
  zeroSlot := h.zeroSlot
  cfg := h.cfg

theorem callsDevice_io (rd rs1 rs2 rs3 : Reg) (s : State) :
    CallsDevice (.io rd rs1 rs2 rs3) rd { funct := 0, s1 := s.reg rs1, s2 := s.reg rs2, s3 := s.reg rs3 } s :=
  .inl ⟨rs1, rs2, rs3, rfl, rfl⟩

theorem callsDevice_ioI (rd rs1 : Reg) (imm : Word) (rs3 : Reg) (s : State) :
    CallsDevice (.ioI rd rs1 imm rs3) rd { funct := 0, s1 := s.reg rs1, s2 := imm, s3 := s.reg rs3 } s :=
  .inr (.inl ⟨rs1, imm, rs3, rfl, rfl⟩)

theorem callsDevice_ioOther (funct : BitVec 8) (rd rs1 : Reg) (src : Src2) (rs3 : Reg) (s : State) :
    CallsDevice (.ioOther funct rd rs1 src rs3) rd
      { funct := funct, s1 := s.reg rs1, s2 := s.operand2 src, s3 := s.reg rs3 } s := by
  cases src with
  | reg rs2 => exact .inr (.inr (.inl ⟨funct, rs1, rs2, rs3, rfl, rfl⟩))
  | imm v => exact .inr (.inr (.inr ⟨funct, rs1, v, rs3, rfl, rfl⟩))

/-- The four forms run one unit, each with its own second operand. -/
theorem CallsDevice.exec_eq_ioUnit (h : CallsDevice i rd c s) :
    ∃ rs1 src rs3, exec i s = ioUnit c.funct rd rs1 src rs3 s ∧
      c = { funct := c.funct, s1 := s.reg rs1, s2 := s.operand2 src, s3 := s.reg rs3 } := by
  obtain ⟨rs1, rs2, rs3, rfl, rfl⟩ | ⟨rs1, imm, rs3, rfl, rfl⟩ | ⟨funct, rs1, rs2, rs3, rfl, rfl⟩ |
    ⟨funct, rs1, imm, rs3, rfl, rfl⟩ := h
  · exact ⟨rs1, .reg rs2, rs3, rfl, rfl⟩
  · exact ⟨rs1, .imm imm, rs3, rfl, rfl⟩
  · exact ⟨rs1, .reg rs2, rs3, rfl, rfl⟩
  · exact ⟨rs1, .imm imm, rs3, rfl, rfl⟩

theorem CallsDevice.exec_of_error {e : IoError} (h : CallsDevice i rd c s)
    (hdev : ioDevice s.cfg c s.io s.mem = .error e) : exec i s = .fault e.fault := by
  obtain ⟨rs1, src, rs3, hexec, hc⟩ := h.exec_eq_ioUnit
  rw [hc] at hdev
  simp only [hexec, ioUnit, hdev, raise]

/-- An error of the device's own answer is the instruction's, in the core's taxonomy (R324). -/
theorem CallsDevice.exec_of_reply_err {e : IoError} (h : CallsDevice i rd c s)
    (hreply : s.io.device.reply s.cfg c s.mem = .err e) : exec i s = .fault e.fault :=
  h.exec_of_error ((ioDevice_eq_error_iff _ _ _ _ _).mpr (.inl hreply))

/-- A device whose writes fail raises their error, whatever it answers (D25). -/
theorem CallsDevice.exec_of_writes_error {v : Word} {ws : List IoWrite} {bs : List IoByte} {e : MemError}
    (h : CallsDevice i rd c s) (hreply : s.io.device.reply s.cfg c s.mem = .ok v ws bs)
    (hws : applyWrites s.cfg.imageWrites ws s.mem = .error e) : exec i s = .fault (.memory e) :=
  h.exec_of_error (e := .memory e) ((ioDevice_eq_error_iff _ _ _ _ _).mpr (.inr ⟨v, ws, bs, e, hreply, hws, rfl⟩))

/-- A device that answers and whose writes succeed: its value goes to rd, its writes and bytes are there (R321, R325). -/
theorem CallsDevice.completes {v : Word} {ws : List IoWrite} {bs : List IoByte} {m : Memory} (h : CallsDevice i rd c s)
    (hreply : s.io.device.reply s.cfg c s.mem = .ok v ws bs) (hws : applyWrites s.cfg.imageWrites ws s.mem = .ok m) :
    ∃ t, exec i s = .next t ∧ WritesBack rd v (s.pc + slotSize s.cfg) s t ∧ t.mem = m ∧
      t.io.device = s.io.device.afterCall ∧ t.io.output = s.io.output ++ bs := by
  have hdev := (ioDevice_eq_ok_iff _ _ _ _ _ _ _).mpr ⟨ws, bs, hreply, hws, rfl⟩
  obtain ⟨rs1, src, rs3, hexec, hc⟩ := h.exec_eq_ioUnit
  rw [hc] at hdev
  simp only [ioUnit, hdev, writeback_value, pcStepOf_eq_slotSize] at hexec
  exact ⟨_, hexec, WritesBack.of_withIoMem (State.writesBack_setReg rd v _ _), rfl, rfl, rfl⟩

end Calls

/-! ## What each device answers (R320, R322 to R324) -/

section Reference
variable {stdFds : List Word} {c : IoCall}

/-- The byte is s1 mod 256. -/
theorem referenceDevice_of_mem (hfunct : c.funct = 0) (hfd : c.s2 ∈ stdFds) :
    referenceDevice stdFds c = .ok 0 [] [{ stream := c.s2, byte := BitVec.ofNat 8 c.s1.toNat }] := by
  rw [referenceDevice, if_pos hfunct, if_pos hfd]
  rfl

theorem referenceDevice_of_notMem (hfunct : c.funct = 0) (hfd : c.s2 ∉ stdFds) :
    referenceDevice stdFds c = .err .badDescriptor := by
  rw [referenceDevice, if_pos hfunct, if_neg hfd]

theorem referenceDevice_of_funct_ne (hfunct : c.funct ≠ 0) : referenceDevice stdFds c = .err .unknownFunct :=
  if_neg hfunct

end Reference

@[simp] theorem IoDevice.reply_absent (cfg : Config) (c : IoCall) (m : Memory) :
    IoDevice.absent.reply cfg c m = .err .unknownFunct := rfl

@[simp] theorem IoDevice.reply_reference (cfg : Config) (c : IoCall) (m : Memory) :
    IoDevice.reference.reply cfg c m = referenceDevice cfg.ioStdFds c := rfl

/-- A supplied device answers as its function at this call, with turns left or with none. -/
theorem Supplies.reply_eq {d d' : IoDevice} {p : IoProgram} (h : Supplies d p d') (cfg : Config) (c : IoCall) (m : Memory) :
    d.reply cfg c m = p.reply cfg.imageWrites c m := by
  obtain ⟨turns, last, rfl, -⟩ | ⟨rfl, -⟩ := h <;> rfl

theorem Supplies.afterCall_eq {d d' : IoDevice} {p : IoProgram} (h : Supplies d p d') : d.afterCall = d' := by
  obtain ⟨turns, last, rfl, rfl⟩ | ⟨rfl, rfl⟩ := h <;> rfl

/-- Funct 0 with a stream of IO_STD_FDS emits one byte and writes no memory (R322, R323). -/
theorem CallsDevice.completes_of_reference {i : Instr} {rd : Reg} {c : IoCall} {s : State} (h : CallsDevice i rd c s)
    (hdev : s.io.device = .reference) (hfunct : c.funct = 0) (hfd : c.s2 ∈ s.cfg.ioStdFds) :
    ∃ t, exec i s = .next t ∧ WritesBack rd 0 (s.pc + slotSize s.cfg) s t ∧ t.mem = s.mem ∧ t.io.device = .reference ∧
      t.io.output = s.io.output ++ [{ stream := c.s2, byte := BitVec.ofNat 8 c.s1.toNat }] := by
  have hreply := referenceDevice_of_mem hfunct hfd
  rw [← IoDevice.reply_reference s.cfg c s.mem, ← hdev] at hreply
  obtain ⟨t, hexec, hback, hmem, hafter, hout⟩ := h.completes hreply (rfl : applyWrites _ [] s.mem = .ok s.mem)
  exact ⟨t, hexec, hback, hmem, by rw [hafter, hdev]; rfl, hout⟩

/-! ## What programs can observe

A device sees the call and, through the interface, each byte read and each byte write. That programs are closed under case splits
on one such value (Laws/Device.lean) is here a property of the value, which pairs and families of finitely many values inherit. -/

/-- Programs can split on g: a function that some program answers for each value of g, one program answers for all of them.
`observable_interface` ties it to `IoProgram.reply`. -/
def Observable {α : Type} (g : ImageWrites → IoCall → Memory → α) : Prop :=
  ∀ (F : ImageWrites → IoCall → Memory → IoReply) (S : ImageWrites → IoCall → Memory → Prop),
    (∀ x, ∃ p : IoProgram, ∀ q c m, S q c m → g q c m = x → p.reply q c m = F q c m) →
      ∃ p : IoProgram, ∀ q c m, S q c m → p.reply q c m = F q c m

section Values
variable {α β : Type} {g : ImageWrites → IoCall → Memory → α} {h : ImageWrites → IoCall → Memory → β}

theorem observable_const (x : α) : Observable fun _ _ _ => x := fun _ _ hsplit => by
  obtain ⟨p, hp⟩ := hsplit x
  exact ⟨p, fun q c m hs => hp q c m hs rfl⟩

theorem Observable.prod (hg : Observable g) (hh : Observable h) : Observable fun q c m => (g q c m, h q c m) := by
  intro F S hsplit
  refine hg F S fun x => ?_
  obtain ⟨p, hp⟩ := hh F (fun q c m => S q c m ∧ g q c m = x) fun y => by
    obtain ⟨p, hp⟩ := hsplit (x, y)
    exact ⟨p, fun q c m hs hy => hp q c m hs.1 (Prod.ext hs.2 hy)⟩
  exact ⟨p, fun q c m hs hx => hp q c m ⟨hs, hx⟩⟩

theorem Observable.comp (hg : Observable g) (f : α → β) : Observable fun q c m => f (g q c m) := by
  intro F S hsplit
  refine hg F S fun x => ?_
  obtain ⟨p, hp⟩ := hsplit (f x)
  exact ⟨p, fun q c m hs hx => hp q c m hs (congrArg f hx)⟩

/-- What can be observed in a one-to-one code can be observed: no program is needed for what is nobody's code. -/
theorem Observable.of_injective {code : α → β} (hcode : code.Injective) (hg : Observable fun q c m => code (g q c m)) :
    Observable g := by
  intro F S hsplit
  refine hg F S fun y => ?_
  by_cases hy : ∃ x, code x = y
  · obtain ⟨x, rfl⟩ := hy
    obtain ⟨p, hp⟩ := hsplit x
    exact ⟨p, fun q c m hs hx => hp q c m hs (hcode hx)⟩
  · exact ⟨.fail .unknownFunct, fun q c m _ hx => absurd ⟨_, hx⟩ hy⟩

end Values

section Families
variable {ι α : Type} {g : ι → ImageWrites → IoCall → Memory → α}

theorem Observable.list_map (hg : ∀ a, Observable (g a)) (l : List ι) :
    Observable fun q c m => l.map fun a => g a q c m := by
  induction l with
  | nil => exact observable_const []
  | cons a l ih => exact ((hg a).prod ih).comp fun x => x.1 :: x.2

/-- A family over finitely many indices is coded by the list of its values. -/
theorem Observable.pi [Finite ι] (hg : ∀ a, Observable (g a)) : Observable fun q c m a => g a q c m := by
  obtain ⟨l, -, hl⟩ := Finite.exists_univ_list ι
  exact (Observable.list_map hg l).of_injective (code := fun r => l.map r)
    fun r r' hr => funext fun a => List.map_inj_left.mp hr a (hl a)

end Families

/-- A term that never fails. -/
theorem observable_of_eval {g : IoCall → Memory → Word} {t : IoTerm} (ht : ∀ c m, t.eval c m = .ok (g c m)) :
    Observable fun _ c m => g c m :=
  fun F S => IoProgram.exists_reply_of_value F S t g fun _ c m _ => ht c m

/-- The call is its four arguments, of which the funct stands in a word. -/
theorem observable_call : Observable fun _ c _ => c := by
  have hfunct := observable_of_eval IoTerm.eval_funct
  have hs1 := observable_of_eval IoTerm.eval_s1
  have hs2 := observable_of_eval IoTerm.eval_s2
  have hs3 := observable_of_eval IoTerm.eval_s3
  refine (hfunct.prod (hs1.prod (hs2.prod hs3))).of_injective
    (code := fun c : IoCall => (zext c.funct, c.s1, c.s2, c.s3)) ?_
  rintro ⟨funct, s1, s2, s3⟩ ⟨funct', s1', s2', s3'⟩ hcode
  simp only [Prod.mk.injEq] at hcode
  obtain ⟨hfuncts, rfl, rfl, rfl⟩ := hcode
  have hwidth : funct = funct' := by
    unfold zext at hfuncts
    bv_omega
  rw [hwidth]

/-- All a device's function may depend on: the call, how each byte read ends and how each byte write would end (R320). -/
theorem observable_interface : Observable fun q c m =>
    (c, (fun a => m.read .byte a), fun a : Word => m.writeError q .byte a.toNat) :=
  observable_call.prod ((Observable.pi fun a F S => IoProgram.exists_reply_of_read a F S).prod
    (Observable.pi fun a F S => IoProgram.exists_reply_of_write a F S))

/-- Every function of the interface is a program's: where all it depends on is fixed its answer is, and a fixed answer is a
program's. -/
theorem IoProgram.exists_reply_of_interface
    (F : IoCall → (Word → Except MemError Word) → (Word → Option MemError) → IoReply) :
    ∃ p : IoProgram, ∀ (q : ImageWrites) (c : IoCall) (m : Memory),
      p.reply q c m = F c (fun a => m.read .byte a) (fun a => m.writeError q .byte a.toNat) := by
  obtain ⟨p, hp⟩ := observable_interface
    (fun q c m => F c (fun a => m.read .byte a) fun a => m.writeError q .byte a.toNat) (fun _ _ _ => True) <| by
      rintro ⟨c₀, reads, writes⟩
      obtain ⟨p, hp⟩ := IoProgram.exists_reply_eq (F c₀ reads writes)
      refine ⟨p, fun q c m _ hseen => ?_⟩
      obtain ⟨rfl, rfl, rfl⟩ : c = c₀ ∧ _ = reads ∧ _ = writes := by simpa only [Prod.mk.injEq] using hseen
      exact hp q c m
  exact ⟨p, fun q c m => hp q c m trivial⟩

/-! ## The obligations -/

/-- Settles O51: both forms call the reference device with funct 0, each with its own stream. -/
theorem ioWritesByteToStream : Obligations.IoWritesByteToStream := fun rd rs1 rs2 rs3 imm s hdev =>
  ⟨(callsDevice_io rd rs1 rs2 rs3 s).completes_of_reference hdev rfl,
    (callsDevice_ioI rd rs1 imm rs3 s).completes_of_reference hdev rfl⟩

/-- Settles O52: the reference device rejects what is not funct 0 with a stream of IO_STD_FDS, and where no device is there
every funct is unknown. -/
theorem ioRejections : Obligations.IoRejections := by
  intro funct rd rs1 rs2 rs3 imm src s
  have hio := callsDevice_io rd rs1 rs2 rs3 s
  have hioI := callsDevice_ioI rd rs1 imm rs3 s
  have hioOther := callsDevice_ioOther funct rd rs1 src rs3 s
  refine ⟨fun hdev => ⟨fun hfd => ?_, fun hfd => ?_, fun hfunct => ?_⟩, fun hdev => ?_⟩
  · exact hio.exec_of_reply_err (e := .badDescriptor) (by rw [hdev]; exact referenceDevice_of_notMem rfl hfd)
  · exact hioI.exec_of_reply_err (e := .badDescriptor) (by rw [hdev]; exact referenceDevice_of_notMem rfl hfd)
  · exact hioOther.exec_of_reply_err (e := .unknownFunct) (by rw [hdev]; exact referenceDevice_of_funct_ne hfunct)
  · have hreply (c : IoCall) : s.io.device.reply s.cfg c s.mem = .err .unknownFunct := by rw [hdev, IoDevice.reply_absent]
    exact ⟨hio.exec_of_reply_err (hreply _), hioI.exec_of_reply_err (hreply _), hioOther.exec_of_reply_err (hreply _)⟩

/-- Settles O53: the instruction ends as its device does, and what programs can observe is the whole interface. -/
theorem ioCompletesWithSuppliedDevice : Obligations.IoCompletesWithSuppliedDevice := by
  refine ⟨fun i rd c s p d v ws bs m hcall hsup hreply hws => ?_, IoProgram.exists_reply_of_interface⟩
  rw [← hsup.reply_eq] at hreply
  obtain ⟨t, hexec, hback, hmem, hafter, hout⟩ := hcall.completes hreply hws
  exact ⟨t, hexec, hback, hmem, hafter.trans hsup.afterCall_eq, hout⟩

/-- Settles O54: the device's own errors are translated one by one, and a failing write of its answer is a memory error. -/
theorem ioErrorsTranslated : Obligations.IoErrorsTranslated := by
  intro i rd c s p d hcall hsup
  rw [← hsup.reply_eq]
  exact ⟨hcall.exec_of_reply_err, hcall.exec_of_reply_err, fun _ => hcall.exec_of_reply_err,
    fun _ _ _ _ => hcall.exec_of_writes_error⟩

end Sys2Proof.Machine
end

section
/-! PROOFS. The Compressed opcode (46_compressed.md R340, R341): which words decode to its one instruction, and that no other
instruction and no rejection of the decoder raises its fault. -/

namespace Sys2Proof.Machine

/-! ## The words of the opcode -/

section Words
variable {c : Config} {w : Word}

theorem immUpperInstr_ne_compressed (f : BitVec 4) (rd : Reg) (imm : Word) : immUpperInstr c f rd imm ≠ .compressed := by
  unfold immUpperInstr
  split
  · next hlt => cases c.immuFunctMap[f.toNat] <;> nofun
  · nofun

theorem ioInstr_ne_compressed (f : BitVec 8) (rd rs1 : Reg) (src : Src2) (rs3 : Reg) :
    ioInstr f rd rs1 src rs3 ≠ .compressed := by
  unfold ioInstr
  split
  · cases src <;> nofun
  · nofun

/-- R341: the opcode means nothing else, and no other opcode means this. -/
theorem decodeWith_eq_compressed_iff : decodeWith c w = .ok .compressed ↔ opcodeOf c w = .compressed := by
  refine ⟨fun h => ?_, decodeWith_compressed⟩
  have hunit := decodeWith_ok_cases c w _ h
  generalize (decodeFields c w).src2 = src at hunit
  rcases hunit with ⟨ho, -⟩ | ⟨-, op, -, hi⟩ | ⟨-, hi⟩ | ⟨-, op, -, hi⟩ | ⟨-, op, -, hi⟩ | ⟨-, hi⟩ | ⟨-, op, -, hi⟩ | ⟨-, hi⟩
  · exact ho
  · cases op <;> cases src <;> cases hi
  · generalize (functOf c w).getLsbD 0 = bit at hi
    cases bit <;> cases src <;> cases hi
  · cases op <;> cases src <;> cases hi
  · cases op <;> cases src <;> cases hi
  · exact absurd hi.symm (ioInstr_ne_compressed _ _ _ _ _)
  · cases op <;> cases src <;> cases hi
  · exact absurd hi.symm (immUpperInstr_ne_compressed _ _ _)

end Words

/-! ## The one source of the fault (R340) -/

theorem exec_compressed (s : State) : exec .compressed s = .fault .compressedUnsupported := rfl

theorem exec_compressedUnsupported_iff {i : Instr} {s : State} :
    exec i s = .fault .compressedUnsupported ↔ i = .compressed := by
  constructor
  · intro h
    rcases exec_fault_cases i s _ h with hno | ⟨-, -, -, -, hf⟩ | ⟨hi, -⟩
    · simp [Fault.NoFunct] at hno
    · cases hf
    · exact hi
  · rintro rfl
    exact exec_compressed s

theorem rejectFault_ne_compressedUnsupported (r : DecodeReject) : rejectFault r ≠ .compressedUnsupported := by
  cases r <;> nofun

theorem step_compressedUnsupported_iff {s : State} {w : Word} (hfetch : s.fetch = .ok w) :
    step s = .fault .compressedUnsupported ↔ opcodeOf s.cfg w = .compressed := by
  rw [step_of_fetch s w hfetch, ← decodeWith_eq_compressed_iff]
  cases decodeWith s.cfg w with
  | ok i => simpa using exec_compressedUnsupported_iff
  | error r => simpa using rejectFault_ne_compressedUnsupported r

/-! ## The obligation -/

/-- Settles O55: the fault is the opcode's, and the reference OPCODE_MAP lists the opcode at 0. -/
theorem compressedWordsStop : Obligations.CompressedWordsStop :=
  ⟨fun s w hfetch => ⟨step_compressedUnsupported_iff hfetch, fun hmap =>
    (step_compressedUnsupported_iff hfetch).trans (opcodeOf_eq_iff s.cfg w 0 .compressed hmap rfl)⟩, exec_compressed⟩

end Sys2Proof.Machine
end

section
/-! PROOFS. Construction (70_reset_and_hazards.md R450): which backend arguments have a memory, what each byte of a new memory is,
and that the core around it is the reset one but for its memory, its device and its parameters. -/

namespace Sys2Proof.Machine

/-! ## The memory of a new core (20_memory.md R59, R63, R66) -/

/-- R66: the one failure of construction is a split image that does not end at a word. -/
theorem constructMemory_eq_error_iff (arg : BackendArg) (e : MemError) :
    constructMemory arg = .error e ↔ e = .unaligned ∧ ∃ image, arg = .split image ∧ image.length % 4 ≠ 0 := by
  cases arg with
  | flat size => simp [constructMemory]
  | sparse => simp [constructMemory]
  | split image =>
    by_cases hlen : image.length % 4 = 0
    · simp [constructMemory, hlen]
    · simpa [constructMemory, hlen] using eq_comm

theorem constructMemory_flat_iff {size : Nat} {m : Memory} :
    constructMemory (.flat size) = .ok m ↔ m = { backend := .flat size, cells := [], blocks := [] } := by
  simp [constructMemory, eq_comm]

theorem constructMemory_sparse_iff {m : Memory} :
    constructMemory .sparse = .ok m ↔ m = { backend := .sparse, cells := [], blocks := [] } := by
  simp [constructMemory, eq_comm]

theorem constructMemory_split_iff {image : List Byte} {m : Memory} :
    constructMemory (.split image) = .ok m ↔
      image.length % 4 = 0 ∧ m = { backend := .split image.length, cells := imageCells 0 image, blocks := [] } := by
  by_cases hlen : image.length % 4 = 0 <;> simp [constructMemory, hlen, eq_comm]

/-- R61: no storage is allocated before the first write. -/
theorem constructMemory_blocks {arg : BackendArg} {m : Memory} (h : constructMemory arg = .ok m) : m.blocks = [] := by
  cases arg with
  | flat size => rw [constructMemory_flat_iff.mp h]
  | sparse => rw [constructMemory_sparse_iff.mp h]
  | split image => rw [(constructMemory_split_iff.mp h).2]

/-- A memory that lists no byte has 0 everywhere (log 18). -/
theorem Memory.byteAt_of_cells_nil {m : Memory} (h : m.cells = []) (a : Nat) : m.byteAt a = 0 := by
  rw [Memory.byteAt, h]; rfl

/-- R66: an image stands at address 0, and no byte is listed behind it. -/
theorem Memory.byteAt_of_cells_image {m : Memory} {image : List Byte} (h : m.cells = imageCells 0 image) (a : Nat) :
    m.byteAt a = if h : a < image.length then image[a] else 0 := by
  have hget : m.byteAt a = image.getD a Memory.unlisted := by
    simpa only [Memory.byteAt, h, Nat.zero_add] using cellsGet_imageCells image 0 a
  rw [hget, List.getD_eq_getElem?_getD]
  split
  · next hlt => rw [List.getElem?_eq_getElem hlt, Option.getD_some]
  · next hge => rw [List.getElem?_eq_none (Nat.le_of_not_lt hge), Option.getD_none, Memory.unlisted]

/-! ## The core around it (R450, R451) -/

section Core
variable {cfg : Config} {dev : IoDevice} {arg : BackendArg}

theorem construct_eq_error_iff {e : MemError} : construct cfg dev arg = .error e ↔ constructMemory arg = .error e := by
  unfold construct
  cases constructMemory arg <;> simp

/-- A new core has the registers of reset; its memory, its device and its parameters are the given ones. -/
theorem construct_of_constructMemory {m : Memory} (h : constructMemory arg = .ok m) :
    construct cfg dev arg =
      .ok { State.reset with mem := m, io := { device := dev, output := [] }, cfg := cfg } := by
  rw [construct, h]

end Core

/-- Whatever memory and parameters stand around the registers of reset, their depth 2 is within the invariant's bound. -/
theorem State.inv_of_reset_regs {s : State} (hregs : s.regs = State.reset.regs) (hwf : s.mem.wf) : s.Inv :=
  ⟨hwf, fun n _ => by rw [hregs, State.reset_depth]; exact Nat.le_max_right n 2⟩

/-! ## The obligation -/

/-- Settles O4: construction fails where its memory does; otherwise the registers are those of reset, and the memory is the one
of its backend. -/
theorem constructedCore : Obligations.ConstructedCore := by
  intro cfg dev arg
  constructor
  · intro image harg hlen
    exact construct_eq_error_iff.mpr ((constructMemory_eq_error_iff arg _).mpr ⟨rfl, image, harg, hlen⟩)
  · intro hlen
    cases hmem : constructMemory arg with
    | error e =>
      obtain ⟨-, image, harg, hbad⟩ := (constructMemory_eq_error_iff arg e).mp hmem
      exact absurd (hlen image harg) hbad
    | ok m =>
      refine ⟨_, construct_of_constructMemory hmem, State.inv_of_reset_regs rfl (constructMemory_wf arg m hmem), rfl, rfl, rfl,
        State.reset_depth, State.reset_reg, constructMemory_blocks hmem, ?flat, ?sparse, ?split⟩
      case flat =>
        rintro size rfl
        obtain rfl := constructMemory_flat_iff.mp hmem
        exact ⟨rfl, Memory.byteAt_of_cells_nil rfl⟩
      case sparse =>
        rintro rfl
        obtain rfl := constructMemory_sparse_iff.mp hmem
        exact ⟨rfl, Memory.byteAt_of_cells_nil rfl⟩
      case split =>
        rintro image rfl
        obtain ⟨-, rfl⟩ := constructMemory_split_iff.mp hmem
        exact ⟨rfl, Memory.byteAt_of_cells_image rfl⟩

end Sys2Proof.Machine
end
